-- ==== Sys2Proof/Word.lean ====
section
/-! DEFINITION. The word types of the block: bytes, the 128-bit registers, the 32-bit CRC register, and the type of the
cipher collaborator's function. Everything with an order of bytes in it is in Decode.lean and Machine/Operands.lean. -/

namespace Sys2Proof

/-- A byte, bit 7 most significant (00_scope.md R9). -/
abbrev Byte := BitVec 8

/-- A 16-byte value: Key, chaining value, subkey, block (10_state.md R20). Index 0 is the most-significant byte
(00_scope.md R9), so the 128 bits read as one number are the bytes in index order. -/
abbrev Block := BitVec 128

/-- A 32-bit value: `CRCREG` (10_state.md R32). -/
abbrev Word32 := BitVec 32

/-- The type of `ENC(key, iv, plaintext)`, the collaborator's successful answer (00_scope.md section 4). -/
abbrev Cipher := Block → Block → Block → Block

/-- `Z16`, sixteen zero bytes (00_scope.md R10). -/
abbrev z16 : Block := 0#128

end Sys2Proof
end

