-- ==== Sys2Proof/Config.lean ====
section
/-! DEFINITION. What is fixed for the machine: the parameters of 00_scope.md section 4, and the values the spec leaves open,
each an opaque constant with no body (the cipher, the draw of a cipher failure, what a register without a value holds, the
number of instances). -/

namespace Sys2Proof

/-- `RB`, XORed into the last byte in doubling (00_scope.md section 4). -/
abbrev Config.rb : Block := 0x87#128

/-- `PADBYTE`, the first padding byte (00_scope.md section 4). -/
abbrev Config.padByte : Byte := 0x80#8

/-- `POLY`, the non-reflected CRC polynomial (00_scope.md section 4). -/
abbrev Config.poly : Word32 := 0x04C11DB7#32

/-- `CRCINIT`, the initial CRC register (00_scope.md section 4). -/
abbrev Config.crcInit : Word32 := 0x00000000#32

/-- `FLUSH`, the zero byte-iterations after the data (00_scope.md section 4). -/
abbrev Config.flush : Nat := 4

/-- `MAXLEN`, the greatest operand length a frame can express (00_scope.md section 4, 30_encoding.md R91). -/
abbrev Config.maxLen : Nat := 2 ^ 32 - 1

/-- The names of the 128-bit registers: the four of 10_state.md R20 and the hidden `W` of R31. -/
inductive Reg where
  | key
  | cv
  | k1
  | k2
  | w
deriving DecidableEq, Repr

/-- The collaborator's decision about one cipher request: answer it, or fail it with an 8-bit code (20_memory.md R66). -/
inductive Draw where
  | succeeds
  | fails (e : Byte)
deriving DecidableEq, Repr, Inhabited

/-- `ENC(key, iv, plaintext)`: a function of its three arguments of which nothing else is assumed (00_scope.md R8). -/
opaque Config.enc : Cipher

/-- The free draw for request number `n` of cipher port `port`, where the state's own `draws` names none: whether a
request fails is under no law (20_memory.md R66; 93_implementation_defined.md U6; log entry 3). -/
opaque Config.draw (port n : Nat) : Draw

/-- What a read of a 128-bit register that holds no value gives. 10_state.md R29: not zero, not any value a claim may
name. No state reachable from reset makes such a read (DESIGN CHOICE, log entry 1). -/
opaque Config.absentBlock (r : Reg) : Block

/-- The same for `CRCREG` (DESIGN CHOICE, log entry 1). -/
opaque Config.absentCrc : Word32

/-- How many instances are built beyond the first; the integrator's choice (60_exceptions.md R231). -/
opaque Config.extraInstances : Nat

/-- `NSESS`, the number of independent instances, at least 1 (00_scope.md section 4, 60_exceptions.md R231). -/
def Config.nsess : Nat := Config.extraInstances + 1

end Sys2Proof
end

