-- ==== Sys2Proof/Syntax.lean ====
section
/-! DEFINITION. The commands of the block, one constructor per row of spec/opcode_table.json, with the operands the frame
carries (30_encoding.md R92). An operand is the bytes the host supplied, of whatever length (30_encoding.md R91). -/

namespace Sys2Proof

/-- The five commands of 30_encoding.md R92, without their operands. -/
inductive Op where
  | init
  | derive
  | tag
  | setcv
  | crc32
deriving DecidableEq, Repr

/-- A command with its operands: the analogue of an instruction (00_scope.md section 6, "command"). -/
inductive Instr where
  /-- `INIT key, cv` (40_session_commands.md R120). -/
  | init (key cv : List Byte)
  /-- `DERIVE` (41_subkey_derivation.md R143). -/
  | derive
  /-- `TAG message` (42_tag_computation.md R160). -/
  | tag (message : List Byte)
  /-- `SETCV value` (40_session_commands.md R121). -/
  | setcv (value : List Byte)
  /-- `CRC32 data` (43_crc32.md R190). -/
  | crc32 (data : List Byte)
deriving DecidableEq, Repr

/-- Which command an instruction is. -/
def Instr.op : Instr → Op
  | .init _ _ => .init
  | .derive => .derive
  | .tag _ => .tag
  | .setcv _ => .setcv
  | .crc32 _ => .crc32

/-- Operand A of the command; empty for `DERIVE` (20_memory.md R50). -/
def Instr.operandA : Instr → List Byte
  | .init key _ => key
  | .derive => []
  | .tag message => message
  | .setcv value => value
  | .crc32 data => data

/-- Operand B of the command; `INIT` alone has one (20_memory.md R51). -/
def Instr.operandB : Instr → List Byte
  | .init _ cv => cv
  | .derive => []
  | .tag _ => []
  | .setcv _ => []
  | .crc32 _ => []

end Sys2Proof
end

