-- ==== Sys2Proof/Machine/State.lean ====
section
/-! DEFINITION. The state of one engine instance (10_state.md), the events at its three ports, the reasons a step can stop,
and the state after reset. State is plain data; INVENTORY.md lists each field with its rule. -/

namespace Sys2Proof.Machine

/-- A cipher request, the triple of 20_memory.md R64. -/
structure CipherRequest where
  key : Block
  iv : Block
  plaintext : Block
deriving DecidableEq, Repr

/-- A cipher answer: success with 16 bytes (20_memory.md R65) or failure with an 8-bit code (R66). -/
inductive CipherAnswer where
  | ok (c : Block)
  | fail (e : Byte)
deriving DecidableEq, Repr

/-- A response: status and result bytes (30_encoding.md R96). -/
structure Response where
  status : Byte
  result : List Byte
deriving DecidableEq, Repr

/-- What an agent outside the instance can observe, in order (20_memory.md R70), and the reset event
(70_reset_and_hazards.md R250). -/
inductive Event where
  | command (frame : List Byte)
  | request (r : CipherRequest)
  | answer (a : CipherAnswer)
  | response (frame : List Byte)
  | reset
deriving DecidableEq, Repr

/-- The reset input of the block: whether and when the host pulls reset (70_reset_and_hazards.md R250). -/
inductive ResetInput where
  /-- No reset is to come. -/
  | released
  /-- Pulled before the next frame has been taken whole, when `taken` bytes of it have: 0 is between two commands. -/
  | beforeCommand (taken : Nat)
  /-- Pulled while the next frame's command executes, after `n` of its requests and answers. -/
  | duringCommand (n : Nat)
deriving DecidableEq, Repr

/-- The phases of the command sequencer, with the indices that exist inside `EXECUTE` (10_state.md R33). -/
inductive Sequencer where
  | idle
  | header
  | payload
  | execute
  /-- Inside `EXECUTE` of `TAG`: the block index `k`. -/
  | executeTag (k : Nat)
  /-- Inside `EXECUTE` of `CRC32`: the byte-iteration index `i` and the bit index `j`. -/
  | executeCrc (i j : Nat)
  | respond
deriving DecidableEq, Repr

/-- The errors a command can end with (60_exceptions.md R210); `CipherPrimitiveFailure` records the collaborator's code. -/
inductive CmdError where
  | invalidKeyLength
  | invalidChainingValueLength
  | uninitializedSubkeys
  | cipherPrimitiveFailure (e : Byte)
  | illegalCommand
deriving DecidableEq, Repr

/-- Why the machine has no next step. No command raises one. -/
inductive Fault where
  /-- Raised by the step when the bytes offered at the command port end inside a frame: the block waits for the rest and
  the model has no step (93_implementation_defined.md U10 "stuck", 70_reset_and_hazards.md R260 (b)). Safe. -/
  | stuckInsideFrame
  /-- Raised by the step when the sequencer is inside a command, or a request or response is outstanding: no step of this
  model begins there, since each command is one step (10_state.md R33), and no step ends there. Safe. -/
  | notIdle
deriving DecidableEq, Repr

/-- Why an instruction has no meaning. -/
inductive Refusal where
  /-- Raised by an arm of `exec` for a command without a meaning; no arm raises it. Safe. -/
  | notModelled (mnemonic : String)
  /-- Raised by `System.stepInstance` for an instance that is not built (60_exceptions.md R231). Safe. -/
  | noSuchInstance
deriving DecidableEq, Repr

/-- The state of one instance. The first thirteen fields are the block's own (10_state.md R20 to R36); the last six are the
environment's side of the ports, the model's own (INVENTORY.md). -/
structure State where
  /-- `KEY`; absent where the register holds no value (10_state.md R21, R29). -/
  key : Option Block
  /-- `CV` (10_state.md R22, R29). -/
  cv : Option Block
  /-- `K1` (10_state.md R23, R29). -/
  k1 : Option Block
  /-- `K2` (10_state.md R23, R29). -/
  k2 : Option Block
  /-- `KEY_VALID` (10_state.md R26). -/
  keyValid : Bool
  /-- `SUBKEYS_VALID` (10_state.md R27). -/
  subkeysValid : Bool
  /-- `W`, which exists only while a `TAG` executes (10_state.md R31). -/
  w : Option Block
  /-- `CRCREG`, which exists only while a `CRC32` executes (10_state.md R32). -/
  crcReg : Option Word32
  /-- The command sequencer (10_state.md R33). -/
  seq : Sequencer
  /-- Operand A in the operand store (10_state.md R34, 20_memory.md R50). -/
  operandA : List Byte
  /-- Operand B in the operand store (10_state.md R34, 20_memory.md R51). -/
  operandB : List Byte
  /-- The cipher request that has no answer yet (10_state.md R36, 20_memory.md R69). -/
  outstanding : Option CipherRequest
  /-- The response not yet emitted (10_state.md R36, 20_memory.md R62). -/
  pendingResponse : Option Response
  /-- Bytes the host offers at the command port, first byte first (20_memory.md R61). -/
  cmdIn : List Byte
  /-- The reset event to come, and where it lands (70_reset_and_hazards.md R250, log entry 12). -/
  resetIn : ResetInput
  /-- The collaborator's decisions about the next requests, oldest first; where it is empty the decision is
  `Config.draw` (20_memory.md R66, log entry 3). -/
  draws : List Draw
  /-- How many requests have been answered (log entry 3). -/
  drawIndex : Nat
  /-- Which cipher port this instance is wired to (10_state.md R39, log entry 11). -/
  cipherPort : Nat
  /-- The event history, oldest first (20_memory.md R70, log entry 8). -/
  history : List Event
deriving DecidableEq, Repr

/-- The state after reset: the table of 10_state.md R36. The registers hold no value, both flags are 0, the sequencer is
`IDLE` and nothing is outstanding. The model's own fields start empty or 0 (DESIGN CHOICE, log entries 3, 8, 10, 11, 12). -/
def State.reset : State where
  key := none
  cv := none
  k1 := none
  k2 := none
  keyValid := false
  subkeysValid := false
  w := none
  crcReg := none
  seq := .idle
  operandA := []
  operandB := []
  outstanding := none
  pendingResponse := none
  cmdIn := []
  resetIn := .released
  draws := []
  drawIndex := 0
  cipherPort := 0
  history := []

end Sys2Proof.Machine
end

