-- ==== Sys2Proof/Machine/Flags.lean ====
section
/-! DEFINITION. The two status flags (10_state.md R26, R27), the session's lifecycle they span (40_session_commands.md R122),
and the status byte, the recorded value and the fatality of each error (30_encoding.md R97, 60_exceptions.md R210). -/

namespace Sys2Proof.Machine

/-- Write both flags (00_scope.md R12 `FLAG <- b`). -/
def State.setFlags (keyValid subkeysValid : Bool) (s : State) : State :=
  { s with keyValid := keyValid, subkeysValid := subkeysValid }

/-- The three states commands can tell apart (40_session_commands.md R122). -/
inductive Lifecycle where
  | empty
  | keyed
  | ready
deriving DecidableEq, Repr

/-- The lifecycle state the flags give; none for subkeys without a key, which no run reaches (10_state.md R28). -/
def State.lifecycle (s : State) : Option Lifecycle :=
  match s.keyValid, s.subkeysValid with
  | false, false => some .empty
  | true, false => some .keyed
  | true, true => some .ready
  | false, true => none

/-- `STATUS` of a successful command (30_encoding.md R97). -/
def statusOk : Byte := 0x00#8

/-- `STATUS` of an error (30_encoding.md R97). -/
def CmdError.status : CmdError → Byte
  | .invalidKeyLength => 0x01#8
  | .invalidChainingValueLength => 0x02#8
  | .uninitializedSubkeys => 0x03#8
  | .cipherPrimitiveFailure _ => 0x04#8
  | .illegalCommand => 0x05#8

/-- The bytes recorded with an error: the collaborator's code, unchanged, or nothing (60_exceptions.md R210). -/
def CmdError.info : CmdError → List Byte
  | .invalidKeyLength => []
  | .invalidChainingValueLength => []
  | .uninitializedSubkeys => []
  | .cipherPrimitiveFailure e => [e]
  | .illegalCommand => []

/-- Whether the error ends the session (60_exceptions.md R210, last column). -/
def CmdError.fatal : CmdError → Bool
  | .invalidKeyLength => true
  | .invalidChainingValueLength => true
  | .uninitializedSubkeys => false
  | .cipherPrimitiveFailure _ => false
  | .illegalCommand => false

end Sys2Proof.Machine
end

