-- ==== Sys2Proof/Machine/Operands.lean ====
section
/-! DEFINITION. The byte order of the 16-byte and 4-byte values, the reads of the operand store, and the byte-buffer helpers
(20_memory.md R50 to R54, 41_subkey_derivation.md R140 to R142). -/

namespace Sys2Proof.Machine

/-- Byte `i` of a 16-byte value, index 0 the most significant (00_scope.md R9, R12 `REG[i]`). -/
def Block.byte (v : Block) (i : Nat) : Byte := v.extractLsb' (8 * (15 - i)) 8

/-- A 16-byte value from its bytes in index order (20_memory.md R53). -/
def Block.ofBytes (bytes : List Byte) : Block :=
  bytes.foldl (fun v b => (v <<< 8) ||| b.setWidth 128) 0#128

/-- The sixteen bytes of a value in index order (20_memory.md R53). -/
def Block.toBytes (v : Block) : List Byte := (List.range 16).map (Block.byte v)

/-- `first8(V)`, the first eight bytes (00_scope.md R11). -/
def Block.first8 (v : Block) : List Byte := (Block.toBytes v).take 8

/-- The four bytes of a 32-bit value, most significant first (20_memory.md R54). -/
def word32Bytes (c : Word32) : List Byte :=
  [c.extractLsb' 24 8, c.extractLsb' 16 8, c.extractLsb' 8 8, c.extractLsb' 0 8]

/-- `MemRead(i, n)` on an operand: `n` bytes from index `i` (00_scope.md R12, 20_memory.md R50). -/
def memRead (operand : List Byte) (i n : Nat) : List Byte := (operand.drop i).take n

/-- `XOR16(a, b)` (41_subkey_derivation.md R140). -/
def xor16 (a b : Block) : Block := a ^^^ b

/-- `SHL1(v)`: the 128-bit value shifted left by one bit, `(2 * v) mod 2^128` (41_subkey_derivation.md R141). -/
def shl1 (v : Block) : Block := v <<< 1

/-- `DBL(v)`: the shift, and `0x87` into the last byte where the top bit of the INPUT is set (41_subkey_derivation.md
R142). -/
def dbl (v : Block) : Block := if v.msb then shl1 v ^^^ Config.rb else shl1 v

end Sys2Proof.Machine
end

