-- ==== Sys2Proof/Machine/Ops.lean ====
section
/-! DEFINITION. The named operations over the state: registers, the start and the end of a command, the cipher port, taking an
error, and the reset event. -/

namespace Sys2Proof.Machine

/-- What register `r` holds, absent for no value (10_state.md R29). -/
def State.reg (r : Reg) (s : State) : Option Block :=
  match r with
  | .key => s.key
  | .cv => s.cv
  | .k1 => s.k1
  | .k2 => s.k2
  | .w => s.w

/-- Read register `r`. A register without a value gives the free value of the configuration; no run makes such a read
(10_state.md R29; log entry 1). -/
def State.read (r : Reg) (s : State) : Block := (s.reg r).getD (Config.absentBlock r)

/-- Read `CRCREG`, likewise (10_state.md R32; log entry 1). -/
def State.readCrc (s : State) : Word32 := s.crcReg.getD Config.absentCrc

/-- Put a value, or no value, into register `r`: all 16 bytes at once (20_memory.md R59). -/
def State.put (r : Reg) (v : Option Block) (s : State) : State :=
  match r with
  | .key => { s with key := v }
  | .cv => { s with cv := v }
  | .k1 => { s with k1 := v }
  | .k2 => { s with k2 := v }
  | .w => { s with w := v }

/-- `REG <- v` (00_scope.md R12). -/
def State.write (r : Reg) (v : Block) (s : State) : State := s.put r (some v)

/-- Register `r` loses its value (10_state.md R29, R37 `x`). -/
def State.lose (r : Reg) (s : State) : State := s.put r none

/-- Enter `EXECUTE` with the command's operands in the operand store (10_state.md R33, R34). -/
def State.begin (a b : List Byte) (s : State) : State :=
  { s with seq := .execute, operandA := a, operandB := b }

/-- The state between two commands: sequencer `IDLE`, no hidden value, operand store empty, nothing outstanding
(10_state.md R31 to R34, R36). -/
def State.settled (s : State) : State :=
  { s with
    seq := .idle
    w := none
    crcReg := none
    operandA := []
    operandB := []
    outstanding := none
    pendingResponse := none }

/-- The block is ready for the first byte of a frame (20_memory.md R61, R63; 10_state.md R36 sequencer row). -/
def State.ready (s : State) : Bool :=
  decide (s.seq = .idle) && s.outstanding.isNone && s.pendingResponse.isNone

/-- The bytes of a response frame: `STATUS`, `RLEN`, `RESULT` (30_encoding.md R96). -/
def Response.bytes (r : Response) : List Byte :=
  r.status :: BitVec.ofNat 8 r.result.length :: r.result

/-- Enter `RESPOND` with a response to emit (10_state.md R33). -/
def State.prepareResponse (r : Response) (s : State) : State :=
  { s with seq := .respond, pendingResponse := some r }

/-- Emit the pending response on the response port and return to `IDLE` (20_memory.md R62, 10_state.md R33). -/
def State.emitResponse (s : State) : State :=
  match s.pendingResponse with
  | some r => { s.settled with history := s.history ++ [.response r.bytes] }
  | none => s.settled

/-- `respond(OK, r)` (00_scope.md R12, 30_encoding.md R96). -/
def State.respond (result : List Byte) (s : State) : State :=
  (s.prepareResponse ⟨statusOk, result⟩).emitResponse

/-- The session is over: both flags 0 and all four registers without a value (60_exceptions.md R212, R213). -/
def State.endSession (s : State) : State :=
  ((((s.setFlags false false).lose .key).lose .cv).lose .k1).lose .k2

/-- `raise <Error>(info)`: THE one operation that takes an error. A fatal error ends the session; the response carries the
error's status and recorded bytes; the sequencer returns to `IDLE` (60_exceptions.md R210 to R215, R221). There is no
return instruction (R222). -/
def State.raise (e : CmdError) (s : State) : State :=
  ((if e.fatal then s.endSession else s).prepareResponse ⟨e.status, e.info⟩).emitResponse

/-- The collaborator's decision about the next request: the oldest of `draws`, else a free draw (20_memory.md R66). -/
def State.nextDraw (s : State) : Draw :=
  match s.draws with
  | d :: _ => d
  | [] => Config.draw s.cipherPort s.drawIndex

/-- The answer a decision gives to a request (20_memory.md R65, R66). -/
def answerFor (enc : Cipher) (d : Draw) (r : CipherRequest) : CipherAnswer :=
  match d with
  | .succeeds => .ok (enc r.key r.iv r.plaintext)
  | .fails e => .fail e

/-- Send a request on the cipher port (20_memory.md R64). -/
def State.sendRequest (r : CipherRequest) (s : State) : State :=
  { s with outstanding := some r, history := s.history ++ [.request r] }

/-- Receive the one answer to the outstanding request (20_memory.md R67); the decision is used up. -/
def State.receiveAnswer (a : CipherAnswer) (s : State) : State :=
  { s with
    outstanding := none
    draws := s.draws.tail
    drawIndex := s.drawIndex + 1
    history := s.history ++ [.answer a] }

/-- `CipherCall(k, iv, p)` (00_scope.md R12, 20_memory.md R64 to R67): the answer, and the state after it. -/
def State.cipherCall (enc : Cipher) (key iv plaintext : Block) (s : State) : CipherAnswer × State :=
  let r : CipherRequest := ⟨key, iv, plaintext⟩
  let a := answerFor enc s.nextDraw r
  (a, (s.sendRequest r).receiveAnswer a)

/-- The cipher requests of a history, in order. -/
def requests : List Event → List CipherRequest
  | [] => []
  | .request r :: es => r :: requests es
  | .command _ :: es => requests es
  | .answer _ :: es => requests es
  | .response _ :: es => requests es
  | .reset :: es => requests es

/-- The reset event: the block's state becomes that of 10_state.md R36, whatever it was; a command in execution is
abandoned and an answer still to come is dropped (70_reset_and_hazards.md R250). What belongs to the environment stays:
bytes not yet taken, the collaborator's decisions, the wiring and what has been observed (log entry 12). The reset itself is
observed. -/
def State.applyReset (s : State) : State :=
  { State.reset with
    cmdIn := s.cmdIn
    draws := s.draws
    drawIndex := s.drawIndex
    cipherPort := s.cipherPort
    history := s.history ++ [.reset] }

/-- A reset inside a command that would lead from `s` to `t`: only its first `n` requests and answers have happened, no
response is emitted, an answer still to come is dropped, and the state is the reset state, not any mixture
(70_reset_and_hazards.md R250). -/
def State.abandon (n : Nat) (s t : State) : State :=
  let events := (t.history.drop s.history.length).dropLast.take n
  State.applyReset { s with
    draws := s.draws.drop (requests events).length
    drawIndex := s.drawIndex + (requests events).length
    history := s.history ++ events }

/-- What a command leads to under the reset input: a reset inside it abandons it (70_reset_and_hazards.md R250). -/
def State.underReset (s : State) (o : Host.Outcome State Fault Refusal) : Host.Outcome State Fault Refusal :=
  match s.resetIn, o with
  | .duringCommand n, .next t => .next (s.abandon n t)
  | _, o => o

/-- The host offers bytes at the command port, after those it has offered already (20_memory.md R61). -/
def State.offer (bytes : List Byte) (s : State) : State := { s with cmdIn := s.cmdIn ++ bytes }

/-- The host pulls reset, or lets it go (70_reset_and_hazards.md R250). -/
def State.pullReset (r : ResetInput) (s : State) : State := { s with resetIn := r }

end Sys2Proof.Machine
end

