-- ==== Sys2Proof/Machine/Crc.lean ====
section
/-! DEFINITION. The command `CRC32` and its parts: the bit step, the data and flush iterations, the output
(43_crc32.md R190 to R193). -/

namespace Sys2Proof.Machine

/-- `CRCSTEP(c, b)`: the old top bit alone decides the XOR, which comes last (43_crc32.md R191). -/
def crcStep (c : Word32) (b : Bool) : Word32 :=
  let shifted := (c <<< 1) ||| (BitVec.ofBool b).setWidth 32
  if c.msb then shifted ^^^ Config.poly else shifted

/-- The byte-iterations over a buffer: each data byte in order, then the flush (43_crc32.md R190, R192). -/
def byteIterations (a : List Byte) : List (Option Byte) :=
  a.map some ++ List.replicate Config.flush none

/-- The input bit of bit step `j`: a data bit, or 0 in the flush phase (43_crc32.md R190). -/
def inputBit (byte : Option Byte) (j : Nat) : Bool :=
  match byte with
  | some b => b.getLsbD j
  | none => false

/-- One bit step on the hidden register, with the sequencer's indices (43_crc32.md R190, R191; 10_state.md R33). -/
def State.crcBit (i j : Nat) (b : Bool) (s : State) : State :=
  { s with seq := .executeCrc i j, crcReg := some (crcStep s.readCrc b) }

/-- One byte-iteration: bit 7 first, bit 0 last (43_crc32.md R190, 20_memory.md R54). -/
def State.crcByte (i : Nat) (byte : Option Byte) (s : State) : State :=
  [7, 6, 5, 4, 3, 2, 1, 0].foldl (fun s j => s.crcBit i j (inputBit byte j)) s

/-- The byte-iterations from index `i` on (43_crc32.md R190). -/
def crcPass : Nat → List (Option Byte) → State → State
  | _, [], s => s
  | i, byte :: rest, s => crcPass (i + 1) rest (s.crcByte i byte)

/-- `CRC32 data` as a step from state to state (43_crc32.md R190, R193). -/
def crcCommand (data : List Byte) (s : State) : State :=
  let s := s.begin data []
  let s := crcPass 0 (byteIterations s.operandA) { s with crcReg := some Config.crcInit }
  s.respond (word32Bytes s.readCrc)

/-- The meaning of `CRC32` (43_crc32.md R190). -/
def execCrc32 (data : List Byte) (s : State) : Host.Outcome State Fault Refusal :=
  .next (crcCommand data s)

end Sys2Proof.Machine
end

