-- ==== Sys2Proof/Machine/Session.lean ====
section
/-! DEFINITION. The session commands `INIT` and `SETCV` (40_session_commands.md). -/

namespace Sys2Proof.Machine

/-- `INIT key, cv` as a step from state to state (40_session_commands.md R120). -/
def initCommand (key cv : List Byte) (s : State) : State :=
  let s := s.begin key cv
  if s.operandA.length ≠ 16 then s.raise .invalidKeyLength
  else if s.operandB.length ≠ 16 then s.raise .invalidChainingValueLength
  else
    let s := s.write .key (Block.ofBytes (memRead s.operandA 0 16))
    let s := s.write .cv (Block.ofBytes (memRead s.operandB 0 16))
    let s := (s.lose .k1).lose .k2
    (s.setFlags true false).respond []

/-- The meaning of `INIT` (40_session_commands.md R120). -/
def execInit (key cv : List Byte) (s : State) : Host.Outcome State Fault Refusal :=
  .next (initCommand key cv s)

/-- `SETCV value` as a step from state to state (40_session_commands.md R121). -/
def setcvCommand (value : List Byte) (s : State) : State :=
  let s := s.begin value []
  if s.operandA.length ≠ 16 then s.raise .invalidChainingValueLength
  else (s.write .cv (Block.ofBytes (memRead s.operandA 0 16))).respond []

/-- The meaning of `SETCV` (40_session_commands.md R121). -/
def execSetcv (value : List Byte) (s : State) : Host.Outcome State Fault Refusal :=
  .next (setcvCommand value s)

end Sys2Proof.Machine
end

