-- ==== Sys2Proof/Machine/Subkeys.lean ====
section
/-! DEFINITION. The command `DERIVE` (41_subkey_derivation.md R143). -/

namespace Sys2Proof.Machine

/-- `DERIVE` under the cipher `enc`, as a step from state to state (41_subkey_derivation.md R143). -/
def deriveCommand (enc : Cipher) (s : State) : State :=
  let s := s.begin [] []
  if s.keyValid = false then s.raise .invalidKeyLength
  else
    match s.cipherCall enc (s.read .key) z16 z16 with
    | (.fail e, s) => s.raise (.cipherPrimitiveFailure e)
    | (.ok base, s) =>
      let s := (s.write .k1 (dbl base)).write .k2 (dbl (dbl base))
      (s.setFlags s.keyValid true).respond []

/-- The meaning of `DERIVE` (41_subkey_derivation.md R143). -/
def execDerive (s : State) : Host.Outcome State Fault Refusal :=
  .next (deriveCommand Config.enc s)

end Sys2Proof.Machine
end

