-- ==== Sys2Proof/Machine/Tag.lean ====
section
/-! DEFINITION. The command `TAG` and its parts: padding decision, segmentation, padding, masking, chaining pass, commit and
truncation (42_tag_computation.md R160 to R167). -/

namespace Sys2Proof.Machine

/-- `needsPadding` for a message of `n` bytes (42_tag_computation.md R161; 90_conflicts.md C2). -/
def needsPadding (n : Nat) : Bool := decide (n % 16 ≠ 0 ∨ n = 0)

/-- `numberOfBlocks` for a message of `n` bytes (42_tag_computation.md R161). -/
def numberOfBlocks (n : Nat) : Nat := if needsPadding n then n / 16 + 1 else n / 16

/-- Chunk `C_k`, sixteen bytes (42_tag_computation.md R162). -/
def chunk (a : List Byte) (k : Nat) : List Byte := memRead a (16 * k) 16

/-- The last chunk `L`, with `r = n - 16 (nb - 1)` bytes (42_tag_computation.md R162). -/
def lastChunk (a : List Byte) : List Byte :=
  let nb := numberOfBlocks a.length
  memRead a (16 * (nb - 1)) (a.length - 16 * (nb - 1))

/-- `PAD(L) = L ++ 80 ++ 00^(15 - r)` (42_tag_computation.md R163). -/
def pad (l : List Byte) : List Byte := l ++ [Config.padByte] ++ List.replicate (15 - l.length) 0#8

/-- The masked last block (42_tag_computation.md R164). -/
def lastBlock (a : List Byte) (k1 k2 : Block) : Block :=
  if needsPadding a.length then xor16 (Block.ofBytes (pad (lastChunk a))) k2
  else xor16 (Block.ofBytes (lastChunk a)) k1

/-- Block `B_k` of the message (42_tag_computation.md R164). -/
def messageBlock (a : List Byte) (k1 k2 : Block) (k : Nat) : Block :=
  if k + 1 < numberOfBlocks a.length then Block.ofBytes (chunk a k) else lastBlock a k1 k2

/-- The blocks `B_0` to `B_(nb-1)` (42_tag_computation.md R164, R171). -/
def messageBlocks (a : List Byte) (k1 k2 : Block) : List Block :=
  (List.range (numberOfBlocks a.length)).map (messageBlock a k1 k2)

/-- The chaining pass from block index `k` on (42_tag_computation.md R165): one request per block, each with the answer to
the one before in its plaintext; it ends early with the collaborator's code where a request fails (R167). -/
def tagPass (enc : Cipher) : Nat → List Block → State → Option Byte × State
  | _, [], s => (none, s)
  | k, b :: bs, s =>
    match ({ s with seq := .executeTag k }).cipherCall enc (s.read .key) z16 (xor16 b (s.read .w)) with
    | (.fail e, s) => (some e, s)
    | (.ok c, s) => tagPass enc (k + 1) bs (s.write .w c)

/-- `TAG message` under the cipher `enc`, as a step from state to state (42_tag_computation.md R160, R166, R167). -/
def tagCommand (enc : Cipher) (message : List Byte) (s : State) : State :=
  let s := s.begin message []
  if s.subkeysValid = false then s.raise .uninitializedSubkeys
  else
    let blocks := messageBlocks s.operandA (s.read .k1) (s.read .k2)
    match tagPass enc 0 blocks (s.write .w (s.read .cv)) with
    | (some e, s) => s.raise (.cipherPrimitiveFailure e)
    | (none, s) => (s.write .cv (s.read .w)).respond (Block.first8 (s.read .w))

/-- The meaning of `TAG` (42_tag_computation.md R160). -/
def execTag (message : List Byte) (s : State) : Host.Outcome State Fault Refusal :=
  .next (tagCommand Config.enc message s)

end Sys2Proof.Machine
end

