-- ==== Sys2Proof/Machine/Dispatch.lean ====
section
/-! DEFINITION. One arm per command (30_encoding.md R92). -/

namespace Sys2Proof.Machine

def exec (i : Instr) (s : State) : Host.Outcome State Fault Refusal :=
  match i with
  | .init key cv => Sys2Proof.Machine.execInit key cv s
  | .derive => Sys2Proof.Machine.execDerive s
  | .tag message => Sys2Proof.Machine.execTag message s
  | .setcv value => Sys2Proof.Machine.execSetcv value s
  | .crc32 data => Sys2Proof.Machine.execCrc32 data s

end Sys2Proof.Machine
end

