-- ==== Sys2Proof/WellFormed.lean ====
section
/-! DEFINITION. Which commands a frame can carry: every operand's length fits its 32-bit length field (30_encoding.md R91,
`MAXLEN`). A key or chaining value of the wrong length is well formed: it is a legal frame and an error of its command. -/

namespace Sys2Proof

/-- The length fits a 32-bit length field (30_encoding.md R91). -/
def lengthFits (operand : List Byte) : Bool := decide (operand.length ≤ Config.maxLen)

/-- The command is expressible as a frame (30_encoding.md R90, R91). -/
def Instr.wellFormed : Instr → Bool
  | .init key cv => lengthFits key && lengthFits cv
  | .derive => true
  | .tag message => lengthFits message
  | .setcv value => lengthFits value
  | .crc32 data => lengthFits data

end Sys2Proof
end

