-- ==== Sys2Proof/Decode.lean ====
section
/-! DEFINITION. Decoding of command frames, total on any bytes, and the encoder, both from the tables of 30_encoding.md
(R90 to R95); and the layout of a word of spec/opcode_table.json as frame bytes. -/

namespace Sys2Proof

/-- The nine header bytes, read (30_encoding.md R90). -/
structure Header where
  opcode : Byte
  alen : Nat
  blen : Nat
deriving DecidableEq, Repr

/-- Why a header is illegal (30_encoding.md R94). -/
inductive Illegal where
  /-- R94 (a): `OPCODE` is `0x00` or `0x06` to `0xFF`. -/
  | reservedOpcode
  /-- R94 (b), (c): a non-zero length for an operand the command does not have. -/
  | operandNotTaken
deriving DecidableEq, Repr

/-- What a header decodes to: one row of the opcode map or illegal (30_encoding.md R93). -/
inductive HeaderMeaning where
  | legal (op : Op)
  | illegal (why : Illegal)
deriving DecidableEq, Repr

/-- Where the bytes end before the frame does (30_encoding.md R95). -/
inductive Incomplete where
  | header
  | payload
deriving DecidableEq, Repr

/-- What the bytes at the command port decode to; `len` is the frame's length `9 + ALEN + BLEN` (30_encoding.md R95). -/
inductive Decoded where
  | instr (i : Instr) (len : Nat)
  | illegal (why : Illegal) (len : Nat)
  | incomplete (where_ : Incomplete)
deriving DecidableEq, Repr

/-- A 32-bit big-endian length field (30_encoding.md R91, 20_memory.md R55). -/
def be32 (b0 b1 b2 b3 : Byte) : Nat :=
  b0.toNat * 2 ^ 24 + b1.toNat * 2 ^ 16 + b2.toNat * 2 ^ 8 + b3.toNat

/-- The header and the bytes after it, where nine bytes are there (30_encoding.md R90). -/
def parseHeader : List Byte → Option (Header × List Byte)
  | op :: a0 :: a1 :: a2 :: a3 :: b0 :: b1 :: b2 :: b3 :: body =>
    some (⟨op, be32 a0 a1 a2 a3, be32 b0 b1 b2 b3⟩, body)
  | _ => none

/-- The opcode map and the illegal headers (30_encoding.md R92, R93, R94). -/
def decodeHeader (h : Header) : HeaderMeaning :=
  if h.opcode = 0x01#8 then .legal .init
  else if h.opcode = 0x02#8 then
    if h.alen = 0 ∧ h.blen = 0 then .legal .derive else .illegal .operandNotTaken
  else if h.opcode = 0x03#8 then
    if h.blen = 0 then .legal .tag else .illegal .operandNotTaken
  else if h.opcode = 0x04#8 then
    if h.blen = 0 then .legal .setcv else .illegal .operandNotTaken
  else if h.opcode = 0x05#8 then
    if h.blen = 0 then .legal .crc32 else .illegal .operandNotTaken
  else .illegal .reservedOpcode

/-- The command with its operands put in place (30_encoding.md R92, columns operand A and operand B). -/
def assemble (op : Op) (a b : List Byte) : Instr :=
  match op with
  | .init => .init a b
  | .derive => .derive
  | .tag => .tag a
  | .setcv => .setcv a
  | .crc32 => .crc32 a

/-- Decode by the header and the bytes after it: the payload must be there, and the header alone says what the frame is
(30_encoding.md R93, R95). -/
def decodeBody (h : Header) (body : List Byte) : Decoded :=
  if body.length < h.alen + h.blen then .incomplete .payload
  else
    match decodeHeader h with
    | .legal op =>
      .instr (assemble op (body.take h.alen) ((body.drop h.alen).take h.blen)) (9 + h.alen + h.blen)
    | .illegal why => .illegal why (9 + h.alen + h.blen)

/-- Decode the frame at the front of `bytes` (30_encoding.md R90 to R95). -/
def decode (bytes : List Byte) : Decoded :=
  match parseHeader bytes with
  | none => .incomplete .header
  | some (h, body) => decodeBody h body

/-- The `OPCODE` byte of each command (30_encoding.md R92). -/
def Op.code : Op → Byte
  | .init => 0x01#8
  | .derive => 0x02#8
  | .tag => 0x03#8
  | .setcv => 0x04#8
  | .crc32 => 0x05#8

/-- The mask of each row on the 72-bit header (30_encoding.md R92, second table; spec/opcode_table.json). -/
def Op.mask : Op → BitVec 72
  | .init => 0xFF0000000000000000#72
  | .derive => 0xFFFFFFFFFFFFFFFFFF#72
  | .tag => 0xFF00000000FFFFFFFF#72
  | .setcv => 0xFF00000000FFFFFFFF#72
  | .crc32 => 0xFF00000000FFFFFFFF#72

/-- The match value of each row on the 72-bit header (30_encoding.md R92, second table; spec/opcode_table.json). -/
def Op.pattern : Op → BitVec 72
  | .init => 0x010000000000000000#72
  | .derive => 0x020000000000000000#72
  | .tag => 0x030000000000000000#72
  | .setcv => 0x040000000000000000#72
  | .crc32 => 0x050000000000000000#72

/-- A header as the 72 bits of 30_encoding.md R90: bits 71 to 64 `OPCODE`, 63 to 32 `ALEN`, 31 to 0 `BLEN`. -/
def Header.bits (h : Header) : BitVec 72 :=
  h.opcode ++ BitVec.ofNat 32 h.alen ++ BitVec.ofNat 32 h.blen

/-- A length as its four big-endian bytes (30_encoding.md R91). -/
def lengthBytes (n : Nat) : List Byte :=
  [BitVec.ofNat 8 (n / 2 ^ 24), BitVec.ofNat 8 (n / 2 ^ 16), BitVec.ofNat 8 (n / 2 ^ 8), BitVec.ofNat 8 n]

/-- The nine header bytes of a command (30_encoding.md R90). -/
def encodeHeader (i : Instr) : List Byte :=
  i.op.code :: (lengthBytes i.operandA.length ++ lengthBytes i.operandB.length)

/-- The frame of a command (30_encoding.md R90). -/
def encode (i : Instr) : List Byte :=
  encodeHeader i ++ (i.operandA ++ i.operandB)

/-- The bytes of a word of spec/opcode_table.json: the table numbers the 72 header bits as one word with `F[0]` in its
most-significant byte (30_encoding.md R92; log entry 9), so the bytes go out most-significant first. -/
def tableBytes (nbits w : Nat) : List Byte :=
  (List.range (nbits / 8)).map fun i => BitVec.ofNat 8 (w >>> (8 * (nbits / 8 - 1 - i)))

/-- The frame of a table word: its bytes, and zeros for the header and payload bytes the table gives no bits. -/
def frameOfTableWord (nbits w : Nat) : List Byte :=
  let bytes := tableBytes nbits w
  let padded := bytes ++ List.replicate (9 - bytes.length) 0#8
  match parseHeader padded with
  | none => padded
  | some (h, body) => padded ++ List.replicate (h.alen + h.blen - body.length) 0#8

/-- The command the decoder reads from a table word; `none` where it refuses. -/
def decodeTableWord (nbits w : Nat) : Option Instr :=
  match decode (frameOfTableWord nbits w) with
  | .instr i _ => some i
  | _ => none

end Sys2Proof
end

