-- ==== Sys2Proof/Machine/Fetch.lean ====
section
/-! DEFINITION. Taking a command frame from the command port (20_memory.md R61, R63; 30_encoding.md R94, R95). -/

namespace Sys2Proof.Machine

/-- What the block finds to do at the start of a step. -/
inductive Fetched where
  /-- The reset event, and the state it leads to. -/
  | reset (s : State)
  /-- The host offers nothing: the block waits (10_state.md R36). -/
  | waiting
  /-- There is no step. -/
  | stopped (f : Fault)
  /-- A frame with an illegal header has been taken, payload and all (30_encoding.md R94). -/
  | illegal (s : State)
  /-- A command has been taken. -/
  | run (i : Instr) (s : State)
deriving DecidableEq, Repr

/-- `IDLE -> HEADER`: the nine header bytes leave the command port (10_state.md R33). -/
def State.takeHeader (s : State) : State := { s with seq := .header, cmdIn := s.cmdIn.drop 9 }

/-- `HEADER -> PAYLOAD`: the `n` payload bytes leave the command port (10_state.md R33). -/
def State.takePayload (n : Nat) (s : State) : State := { s with seq := .payload, cmdIn := s.cmdIn.drop n }

/-- Take a frame of `len` bytes: header, payload, and the frame is observed as taken (20_memory.md R70). -/
def State.takeFrame (len : Nat) (s : State) : State :=
  { (s.takeHeader.takePayload (len - 9)) with history := s.history ++ [.command (s.cmdIn.take len)] }

/-- How many bytes of the first frame offered the block can have taken without having taken it whole: none inside a command
(20_memory.md R63), else fewer than the frame's length (30_encoding.md R95). -/
def State.frameRoom (s : State) : Nat :=
  if s.ready then
    match decode s.cmdIn with
    | .instr _ len => len - 1
    | .illegal _ len => len - 1
    | .incomplete _ => s.cmdIn.length
  else 0

/-- A reset when `taken` bytes of the next frame have been taken: they are lost
(70_reset_and_hazards.md R250, 10_state.md R36). -/
def State.resetInFrame (taken : Nat) (s : State) : State :=
  State.applyReset { s with cmdIn := s.cmdIn.drop (min taken s.frameRoom) }

/-- What the next step does without a reset before its command (20_memory.md R61, R63; 30_encoding.md R93 to R95;
93_implementation_defined.md U10). -/
def fetchFrame (s : State) : Fetched :=
  if s.ready = false then .stopped .notIdle
  else
    match s.cmdIn with
    | [] => .waiting
    | _ :: _ =>
      match decode s.cmdIn with
      | .instr i len => .run i (s.takeFrame len)
      | .illegal _ len => .illegal (s.takeFrame len)
      | .incomplete _ => .stopped .stuckInsideFrame

/-- What the next step does (70_reset_and_hazards.md R250 before all else). -/
def fetch (s : State) : Fetched :=
  match s.resetIn with
  | .beforeCommand taken => .reset (s.resetInFrame taken)
  | .duringCommand _ => fetchFrame s
  | .released => fetchFrame s

/-- A word of the opcode table offered at the command port of an idle block, reset not pulled. -/
def placeTableWord (s : State) (nbits w : Nat) : State :=
  { s with
    seq := .idle
    outstanding := none
    pendingResponse := none
    resetIn := .released
    cmdIn := frameOfTableWord nbits w }

end Sys2Proof.Machine
end

