-- ==== Sys2Proof/Machine/Step.lean ====
section
/-! DEFINITION. One step: the reset event, or one whole command from the state before it to the state after it
(10_state.md R33, 20_memory.md R63), or waiting. -/

namespace Sys2Proof.Machine

/-- The step of one instance. An illegal header ends in `IllegalCommand` (60_exceptions.md R211). -/
def step (s : State) : Host.Outcome State Fault Refusal :=
  match fetch s with
  | .reset t => .next t
  | .waiting => .next s
  | .stopped f => .fault f
  | .illegal s' => s'.underReset (.next (s'.raise .illegalCommand))
  | .run i s' => s'.underReset (exec i s')

/-- The state with the instruction of a table word offered where the next step fetches (log entry 10). -/
def State.withFetchWord (s : State) (nbits w : Nat) : State := placeTableWord s nbits w

end Sys2Proof.Machine
end

