-- ==== Sys2Proof/Machine/System.lean ====
section
/-! DEFINITION. The `NSESS` independent instances: each with its own state and ports, and the reset event that reaches all of
them at once (10_state.md R39, 20_memory.md R73, 60_exceptions.md R231, 70_reset_and_hazards.md R250). -/

namespace Sys2Proof.Machine

/-- The block as built: one State per instance, in the order of their cipher ports. -/
structure System where
  sessions : List State
deriving DecidableEq, Repr

/-- Every instance after reset: each empty and idle, each with a cipher port of its own (60_exceptions.md R231). -/
def System.reset : System where
  sessions := (List.range Config.nsess).map fun port => { State.reset with cipherPort := port }

/-- Instance `n` takes its step; no other instance is touched (10_state.md R39). -/
def System.stepInstance (n : Nat) (sys : System) : Host.Outcome System Fault Refusal :=
  match sys.sessions[n]? with
  | none => .refused .noSuchInstance
  | some s =>
    match step s with
    | .next t => .next ⟨sys.sessions.set n t⟩
    | .fault f => .fault f
    | .refused r => .refused r

/-- The one reset event, applied to every instance at once (70_reset_and_hazards.md R250). -/
def System.resetAll (sys : System) : System := ⟨sys.sessions.map State.applyReset⟩

/-- The host pulls reset, which lands in each instance where it stands (70_reset_and_hazards.md R250). -/
def System.pullReset (where_ : Nat → ResetInput) (sys : System) : System :=
  ⟨sys.sessions.mapIdx fun n s => s.pullReset (where_ n)⟩

/-- The host of instance `n` offers bytes at its command port (20_memory.md R61). -/
def System.offerTo (n : Nat) (bytes : List Byte) (sys : System) : System :=
  ⟨sys.sessions.modify n (State.offer bytes)⟩

end Sys2Proof.Machine
end

