-- ==== Sys2Proof/Safety.lean ====
section
/-! DEFINITION. The terms claims use: the invariants of a session, what is true between two commands, the shape of an event
history and of a response, and the functions of the operands and registers that the commands compute. -/

namespace Sys2Proof.Machine

/-- Between two commands: sequencer `IDLE`, no hidden value, operand store empty, nothing outstanding on any port
(10_state.md R31, R32, R34, R36). -/
structure State.Quiet (s : State) : Prop where
  idle : s.seq = .idle
  noW : s.w = none
  noCrcReg : s.crcReg = none
  noOperandA : s.operandA = []
  noOperandB : s.operandB = []
  noRequest : s.outstanding = none
  noResponse : s.pendingResponse = none

/-- The flag and register invariant of a session (10_state.md R24, R28, R29). -/
structure State.SessionInv (s : State) : Prop where
  /-- R28: `SUBKEYS_VALID = 1` implies `KEY_VALID = 1`. -/
  subkeysNeedKey : s.subkeysValid = true → s.keyValid = true
  /-- R28: `KEY_VALID = 1` implies `KEY` and `CV` each hold a value. -/
  keyHeld : s.keyValid = true → s.key.isSome ∧ s.cv.isSome
  /-- R24, R28: `SUBKEYS_VALID = 1` implies that `K1`, `K2` are the subkeys of the current `KEY`. -/
  subkeysHeld : s.subkeysValid = true → ∃ k, s.key = some k ∧
    s.k1 = some (dbl (Config.enc k z16 z16)) ∧ s.k2 = some (dbl (dbl (Config.enc k z16 z16)))
  /-- R29: without `KEY_VALID`, `KEY` holds no value. -/
  noKey : s.keyValid = false → s.key = none
  /-- R29: without `SUBKEYS_VALID`, `K1` and `K2` hold no value. -/
  noSubkeys : s.subkeysValid = false → s.k1 = none ∧ s.k2 = none

/-- Where an observer stands inside an event history (20_memory.md R70). -/
inductive Observer where
  /-- No command is in execution. -/
  | between
  /-- A command has been taken and no request is outstanding. -/
  | running
  /-- A request is outstanding. -/
  | waiting
  /-- A request has failed: only the response may follow (20_memory.md R69). -/
  | failed
deriving DecidableEq, Repr

/-- One event seen: where the observer stands after it, or none where the order of 20_memory.md R62, R63, R69, R70 forbids
the event. A reset is seen anywhere, and no command is in execution after it (70_reset_and_hazards.md R250). -/
def Observer.see : Observer → Event → Option Observer
  | .between, .command _ => some .running
  | .running, .request _ => some .waiting
  | .waiting, .answer (.ok _) => some .running
  | .waiting, .answer (.fail _) => some .failed
  | .running, .response _ => some .between
  | .failed, .response _ => some .between
  | _, .reset => some .between
  | _, _ => none

/-- The events seen in order. -/
def Observer.seeAll : Observer → List Event → Option Observer
  | o, [] => some o
  | o, e :: es =>
    match o.see e with
    | none => none
    | some o' => Observer.seeAll o' es

/-- The history is a sequence of complete exchanges: a frame taken, then requests each with its answer, none after a
failure, then exactly one response (20_memory.md R62, R67, R69, R70); a reset ends an exchange wherever it stands
(70_reset_and_hazards.md R250). -/
def HistoryComplete (h : List Event) : Prop := Observer.seeAll .between h = some .between

/-- The response frames of a history, in order. -/
def responses : List Event → List (List Byte)
  | [] => []
  | .response frame :: es => frame :: responses es
  | .command _ :: es => responses es
  | .request _ :: es => responses es
  | .answer _ :: es => responses es
  | .reset :: es => responses es

/-- A response frame the block may emit: the rows of the table of 30_encoding.md R98. -/
inductive LegalResponse : List Byte → Prop where
  | okEmpty : LegalResponse [0x00#8, 0x00#8]
  | okTag (tag : List Byte) (h : tag.length = 8) : LegalResponse (0x00#8 :: 0x08#8 :: tag)
  | okChecksum (sum : List Byte) (h : sum.length = 4) : LegalResponse (0x00#8 :: 0x04#8 :: sum)
  | invalidKeyLength : LegalResponse [0x01#8, 0x00#8]
  | invalidChainingValueLength : LegalResponse [0x02#8, 0x00#8]
  | uninitializedSubkeys : LegalResponse [0x03#8, 0x00#8]
  | cipherPrimitiveFailure (e : Byte) : LegalResponse [0x04#8, 0x01#8, e]
  | illegalCommand : LegalResponse [0x05#8, 0x00#8]

/-- The command is answered, and its response frame begins with the status `st` (30_encoding.md R96, R97). -/
def AnswersWith (o : Host.Outcome State Fault Refusal) (st : Byte) : Prop :=
  ∃ t body, o = .next t ∧ t.history.getLast? = some (.response (st :: body))

/-- The collaborator's decision about the `k`-th request from now (20_memory.md R66). -/
def State.drawAt (s : State) (k : Nat) : Draw :=
  match s.draws[k]? with
  | some d => d
  | none => Config.draw s.cipherPort (s.drawIndex + k)

/-- The chain value after the blocks, from `w` (42_tag_computation.md R165). -/
def chain (enc : Cipher) (key w : Block) (blocks : List Block) : Block :=
  blocks.foldl (fun w b => enc key z16 (xor16 b w)) w

/-- The requests and successful answers of a chaining pass from `w` (42_tag_computation.md R165, 20_memory.md R69). -/
def exchanges (enc : Cipher) (key : Block) : Block → List Block → List Event
  | _, [] => []
  | w, b :: bs =>
    let x := xor16 b w
    let c := enc key z16 x
    .request ⟨key, z16, x⟩ :: .answer (.ok c) :: exchanges enc key c bs

/-- One byte-iteration on a register value (43_crc32.md R190). -/
def crcByteValue (c : Word32) (byte : Option Byte) : Word32 :=
  [7, 6, 5, 4, 3, 2, 1, 0].foldl (fun c j => crcStep c (inputBit byte j)) c

/-- The byte-iterations on a register value (43_crc32.md R190). -/
def crcFrom (c : Word32) (bytes : List (Option Byte)) : Word32 := bytes.foldl crcByteValue c

/-- The checksum of a buffer: zero register, data, flush (43_crc32.md R190). -/
def checksum (data : List Byte) : Word32 := crcFrom Config.crcInit (byteIterations data)

/-- The bits of a buffer in the order the CRC consumes them: bytes in index order, bit 7 first (20_memory.md R54). -/
def dataBits (data : List Byte) : List Bool :=
  data.flatMap fun b => [7, 6, 5, 4, 3, 2, 1, 0].map b.getLsbD

/-- The states a list of commands leads to, each command executed in turn (20_memory.md R68). -/
def runCommands : List Instr → State → Host.Outcome State Fault Refusal
  | [], s => .next s
  | i :: is, s =>
    match exec i s with
    | .next t => runCommands is t
    | .fault f => .fault f
    | .refused r => .refused r

end Sys2Proof.Machine
end

