-- ==== Sys2Proof/Certificates/Slice0/Obligations.lean ====
section
/-! DEFINITION. The statements for the provers, each from the numbered rules of spec/ or derived from them. Where a statement
speaks of `s.read r`, it holds for every state: where the register holds no value the read is a free value, and no statement
rests on which (log entry 1). -/

open Sys2Proof Sys2Proof.Machine

/-! ## Byte order and helpers -/

/-- 20_memory.md R53, 00_scope.md R9: index 0 is the most-significant byte, and a 16-byte value and its bytes determine each
other. -/
def Obligations.BlocksAreTheirBytesMostSignificantFirst : Prop :=
  (∀ bytes : List Byte, bytes.length = 16 →
    Block.toBytes (Block.ofBytes bytes) = bytes ∧
    ∀ i < 16, bytes[i]? = some (Block.byte (Block.ofBytes bytes) i)) ∧
  (∀ v : Block, Block.ofBytes (Block.toBytes v) = v ∧
    v.toNat = (List.range 16).foldl (fun n i => 256 * n + (Block.byte v i).toNat) 0)

/-- 41_subkey_derivation.md R140: `XOR16` is bytewise, commutative and associative, with `Z16` neutral and every value its
own inverse. -/
def Obligations.XorIsBytewise : Prop :=
  (∀ (a b : Block), ∀ i < 16, Block.byte (xor16 a b) i = Block.byte a i ^^^ Block.byte b i) ∧
  (∀ a b : Block, xor16 a b = xor16 b a) ∧
  (∀ a b c : Block, xor16 (xor16 a b) c = xor16 a (xor16 b c)) ∧
  (∀ a : Block, xor16 a z16 = a ∧ xor16 a a = z16)

/-- 41_subkey_derivation.md R141: the byte formula of `SHL1`, and the same as numbers. -/
def Obligations.ShiftCarriesFromTheNextByte : Prop :=
  ∀ v : Block,
    (∀ i < 15, Block.byte (shl1 v) i = (Block.byte v i <<< 1) ||| (Block.byte v (i + 1) >>> 7)) ∧
    Block.byte (shl1 v) 15 = Block.byte v 15 <<< 1 ∧
    (shl1 v).toNat = (2 * v.toNat) % 2 ^ 128

/-- 41_subkey_derivation.md R142: `0x87` goes into byte 15 and no other, exactly where the top bit of the input is set. -/
def Obligations.DoublingXorsTheLastByteOnly : Prop :=
  ∀ v : Block,
    (∀ i < 15, Block.byte (dbl v) i = Block.byte (shl1 v) i) ∧
    Block.byte (dbl v) 15 =
      if (Block.byte v 0).getLsbD 7 then Block.byte (shl1 v) 15 ^^^ 0x87#8 else Block.byte (shl1 v) 15

/-! ## Segmentation, padding and masking -/

/-- 42_tag_computation.md R161. -/
def Obligations.PaddingDecisionAndBlockCount : Prop :=
  ∀ n : Nat,
    (needsPadding n = true ↔ n % 16 ≠ 0 ∨ n = 0) ∧
    (needsPadding n = true → numberOfBlocks n = n / 16 + 1) ∧
    (needsPadding n = false → 16 * numberOfBlocks n = n ∧ n ≠ 0) ∧
    1 ≤ numberOfBlocks n ∧ numberOfBlocks n = max 1 ((n + 15) / 16)

/-- 42_tag_computation.md R162: all chunks but the last are 16 bytes, byte `j` of chunk `k` is message byte `16 k + j`, the
chunks in order are the message, and the last chunk has the length the rule gives. -/
def Obligations.ChunksPartitionTheMessage : Prop :=
  ∀ a : List Byte,
    (∀ k, k + 1 < numberOfBlocks a.length → (chunk a k).length = 16 ∧
      ∀ j < 16, (chunk a k)[j]? = a[16 * k + j]? ∧ 16 * k + j < a.length) ∧
    ((List.range (numberOfBlocks a.length - 1)).map (chunk a)).flatten ++ lastChunk a = a ∧
    (needsPadding a.length = true → (lastChunk a).length = a.length % 16) ∧
    (needsPadding a.length = false → (lastChunk a).length = 16)

/-- 42_tag_computation.md R163: the padded chunk is exactly 16 bytes: the chunk, `80`, zeros. -/
def Obligations.PaddingFillsTheBlock : Prop :=
  ∀ l : List Byte, l.length ≤ 15 →
    (pad l).length = 16 ∧
    ∀ i < 16, (pad l)[i]? = if i < l.length then l[i]? else if i = l.length then some 0x80#8 else some 0x00#8

/-- 42_tag_computation.md R164: one block per chunk, only the last masked, with `K2` after padding and `K1` otherwise. -/
def Obligations.OnlyTheLastBlockIsMasked : Prop :=
  ∀ (a : List Byte) (k1 k2 : Block),
    (messageBlocks a k1 k2).length = numberOfBlocks a.length ∧
    (∀ k, k + 1 < numberOfBlocks a.length → (messageBlocks a k1 k2)[k]? = some (Block.ofBytes (chunk a k))) ∧
    (messageBlocks a k1 k2)[numberOfBlocks a.length - 1]? =
      some (if needsPadding a.length then xor16 (Block.ofBytes (pad (lastChunk a))) k2
        else xor16 (Block.ofBytes (lastChunk a)) k1)

/-- 42_tag_computation.md R169: a short message and its padding written out give different blocks unless `K1 = K2`. -/
def Obligations.WrittenOutPaddingIsMaskedDifferently : Prop :=
  ∀ (m : List Byte) (k1 k2 : Block), m.length < 16 →
    (messageBlocks (pad m) k1 k2 = messageBlocks m k1 k2 ↔ k1 = k2)

/-! ## INIT and SETCV -/

/-- 40_session_commands.md R120, success. -/
def Obligations.InitWithSixteenByteOperandsStartsASession : Prop :=
  ∀ (key cv : List Byte) (s : State), key.length = 16 → cv.length = 16 →
    exec (.init key cv) s = .next { s.settled with
      key := some (Block.ofBytes key)
      cv := some (Block.ofBytes cv)
      k1 := none
      k2 := none
      keyValid := true
      subkeysValid := false
      history := s.history ++ [.response [0x00#8, 0x00#8]] }

/-- 60_exceptions.md R212: `INIT` with a key that is not 16 bytes (whatever the chaining value), and `DERIVE` without a
valid key. -/
def Obligations.InvalidKeyLengthEndsTheSession : Prop :=
  (∀ (key cv : List Byte) (s : State), key.length ≠ 16 →
    exec (.init key cv) s = .next { s.settled with
      key := none, cv := none, k1 := none, k2 := none, keyValid := false, subkeysValid := false
      history := s.history ++ [.response [0x01#8, 0x00#8]] }) ∧
  (∀ s : State, s.keyValid = false →
    exec .derive s = .next { s.settled with
      key := none, cv := none, k1 := none, k2 := none, keyValid := false, subkeysValid := false
      history := s.history ++ [.response [0x01#8, 0x00#8]] })

/-- 60_exceptions.md R213: `INIT` with a good key and a chaining value that is not 16 bytes, and `SETCV` likewise. -/
def Obligations.InvalidChainingValueLengthEndsTheSession : Prop :=
  (∀ (key cv : List Byte) (s : State), key.length = 16 → cv.length ≠ 16 →
    exec (.init key cv) s = .next { s.settled with
      key := none, cv := none, k1 := none, k2 := none, keyValid := false, subkeysValid := false
      history := s.history ++ [.response [0x02#8, 0x00#8]] }) ∧
  (∀ (value : List Byte) (s : State), value.length ≠ 16 →
    exec (.setcv value) s = .next { s.settled with
      key := none, cv := none, k1 := none, k2 := none, keyValid := false, subkeysValid := false
      history := s.history ++ [.response [0x02#8, 0x00#8]] })

/-- 40_session_commands.md R121, success: `CV` and nothing else of the session. -/
def Obligations.SetcvWritesOnlyTheChainingValue : Prop :=
  ∀ (value : List Byte) (s : State), value.length = 16 →
    exec (.setcv value) s = .next { s.settled with
      cv := some (Block.ofBytes value)
      history := s.history ++ [.response [0x00#8, 0x00#8]] }

/-- 70_reset_and_hazards.md R261, 40_session_commands.md R120 corner case 2: after any successful `INIT`, also when the key is
the old one, every `TAG` is rejected until a `DERIVE`: whatever commands but `DERIVE` come between, the `TAG` answers `03 00`,
and none of these commands sends a cipher request. Straight after the `INIT` the session is *keyed* with the `CV` it gave,
and stays so over the rejected `TAG`. -/
def Obligations.TagAfterInitNeedsADerive : Prop :=
  (∀ (key cv m : List Byte) (between : List Instr) (s : State), key.length = 16 → cv.length = 16 →
    (∀ i ∈ between, i.op ≠ .derive) →
    ∃ t, runCommands (.init key cv :: between) s = .next t ∧ t.subkeysValid = false ∧
      requests t.history = requests s.history ∧
      exec (.tag m) t = .next { t.settled with history := t.history ++ [.response [0x03#8, 0x00#8]] }) ∧
  (∀ (key cv m : List Byte) (s : State), key.length = 16 → cv.length = 16 →
    ∃ t, runCommands [.init key cv, .tag m] s = .next t ∧
      t.history = s.history ++ [.response [0x00#8, 0x00#8], .response [0x03#8, 0x00#8]] ∧
      t.lifecycle = some .keyed ∧ t.cv = some (Block.ofBytes cv))

/-! ## DERIVE -/

/-- 41_subkey_derivation.md R143, success: one request `(KEY, Z16, Z16)`, both subkeys, the flag. The collaborator's decision
that this uses up (`draws`, `drawIndex`) is the model's bookkeeping (log entry 3). -/
def Obligations.DeriveWritesBothSubkeys : Prop :=
  ∀ s : State, s.keyValid = true → s.drawAt 0 = .succeeds →
    exec .derive s = .next { s.settled with
      k1 := some (dbl (Config.enc (s.read .key) z16 z16))
      k2 := some (dbl (dbl (Config.enc (s.read .key) z16 z16)))
      subkeysValid := true
      draws := s.draws.drop 1
      drawIndex := s.drawIndex + 1
      history := s.history ++ [.request ⟨s.read .key, z16, z16⟩,
        .answer (.ok (Config.enc (s.read .key) z16 z16)), .response [0x00#8, 0x00#8]] }

/-- 41_subkey_derivation.md R143 corner cases 1 and 2: a second successful `DERIVE` sends the same request and leaves the
same subkeys. -/
def Obligations.DeriveIsIdempotent : Prop :=
  ∀ s : State, s.keyValid = true → s.drawAt 0 = .succeeds → s.drawAt 1 = .succeeds →
    ∃ t u, exec .derive s = .next t ∧ exec .derive t = .next u ∧
      u.key = t.key ∧ u.cv = t.cv ∧ u.k1 = t.k1 ∧ u.k2 = t.k2 ∧ u.subkeysValid = true ∧
      ∃ q a, requests t.history = requests s.history ++ [q] ∧ requests u.history = requests t.history ++ [q] ∧
        u.history = t.history ++ [.request q, .answer a, .response [0x00#8, 0x00#8]]

/-- 60_exceptions.md R215: in `DERIVE` and in `TAG` a failing request ends the command with the collaborator's code, and no
register and no flag changes. The decisions used up (`draws`, `drawIndex`) are the model's bookkeeping (log entry 3). -/
def Obligations.CipherPrimitiveFailureChangesNoRegister : Prop :=
  (∀ (s : State) (e : Byte), s.keyValid = true → s.drawAt 0 = .fails e →
    exec .derive s = .next { s.settled with
      draws := s.draws.drop 1
      drawIndex := s.drawIndex + 1
      history := s.history ++ [.request ⟨s.read .key, z16, z16⟩, .answer (.fail e),
        .response [0x04#8, 0x01#8, e]] }) ∧
  (∀ (m : List Byte) (s : State) (j : Nat) (e : Byte), s.subkeysValid = true → j < numberOfBlocks m.length →
    (∀ i < j, s.drawAt i = .succeeds) → s.drawAt j = .fails e →
    ∃ events, exec (.tag m) s = .next { s.settled with
      draws := s.draws.drop (j + 1)
      drawIndex := s.drawIndex + (j + 1)
      history := s.history ++ events ++ [.answer (.fail e), .response [0x04#8, 0x01#8, e]] } ∧
      (requests events).length = j + 1 ∧ responses events = [])

/-! ## TAG -/

/-- 60_exceptions.md R214. -/
def Obligations.TagWithoutSubkeysChangesNothing : Prop :=
  ∀ (m : List Byte) (s : State), s.subkeysValid = false →
    exec (.tag m) s = .next { s.settled with history := s.history ++ [.response [0x03#8, 0x00#8]] }

/-- 42_tag_computation.md R160, R165, R166, success: from `CV`, one request per block in order under a zero IV, the last
answer into `CV`, its first eight bytes to the host; nothing else of the session changes. The decisions used up (`draws`,
`drawIndex`) are the model's bookkeeping (log entry 3). -/
def Obligations.TagChainsTheBlocksAndCommits : Prop :=
  ∀ (m : List Byte) (s : State), s.subkeysValid = true →
    (∀ j < numberOfBlocks m.length, s.drawAt j = .succeeds) →
    exec (.tag m) s = .next { s.settled with
      cv := some (chain Config.enc (s.read .key) (s.read .cv) (messageBlocks m (s.read .k1) (s.read .k2)))
      draws := s.draws.drop (numberOfBlocks m.length)
      drawIndex := s.drawIndex + numberOfBlocks m.length
      history := s.history ++
        exchanges Config.enc (s.read .key) (s.read .cv) (messageBlocks m (s.read .k1) (s.read .k2)) ++
        [.response (0x00#8 :: 0x08#8 ::
          Block.first8 (chain Config.enc (s.read .key) (s.read .cv) (messageBlocks m (s.read .k1) (s.read .k2))))] }

/-- 42_tag_computation.md R167: where request `j` is the first to fail, the collaborator has seen requests 0 to `j` and no
other, and nothing of the session has changed. The decisions used up (`draws`, `drawIndex`) are the model's bookkeeping
(log entry 3). -/
def Obligations.FailedTagLeavesNoTrace : Prop :=
  ∀ (m : List Byte) (s : State) (j : Nat) (e : Byte), s.subkeysValid = true →
    (∀ i < j, s.drawAt i = .succeeds) → s.drawAt j = .fails e →
    ∀ b, (messageBlocks m (s.read .k1) (s.read .k2))[j]? = some b →
    exec (.tag m) s = .next { s.settled with
      draws := s.draws.drop (j + 1)
      drawIndex := s.drawIndex + (j + 1)
      history := s.history ++
        exchanges Config.enc (s.read .key) (s.read .cv) ((messageBlocks m (s.read .k1) (s.read .k2)).take j) ++
        [.request ⟨s.read .key, z16, xor16 b (chain Config.enc (s.read .key) (s.read .cv)
            ((messageBlocks m (s.read .k1) (s.read .k2)).take j))⟩,
          .answer (.fail e), .response [0x04#8, 0x01#8, e]] }

/-- 42_tag_computation.md R165, 20_memory.md R69: the exchanges of a pass are one request and one answer per block, in
order, each request under the key and a zero IV with the block XORed into the answer before it. -/
def Obligations.ExchangesFollowTheChain : Prop :=
  ∀ (enc : Cipher) (key w : Block) (blocks : List Block),
    (exchanges enc key w blocks).length = 2 * blocks.length ∧
    ∀ j b, blocks[j]? = some b →
      (exchanges enc key w blocks)[2 * j]? =
        some (.request ⟨key, z16, xor16 b (chain enc key w (blocks.take j))⟩) ∧
      (exchanges enc key w blocks)[2 * j + 1]? = some (.answer (.ok (chain enc key w (blocks.take (j + 1)))))

/-- 42_tag_computation.md R168: the second `TAG` starts from the whole chain value the first left; with `SETCV c` between
them it starts from `c`. -/
def Obligations.ChainValueCarriesOverBetweenTags : Prop :=
  ∀ (a b c : List Byte) (s : State), s.subkeysValid = true → c.length = 16 →
    (∀ j < numberOfBlocks a.length + numberOfBlocks b.length, s.drawAt j = .succeeds) →
    ∃ t u,
      runCommands [.tag a, .tag b] s = .next t ∧ runCommands [.tag a, .setcv c, .tag b] s = .next u ∧
      t.cv = some (chain Config.enc (s.read .key)
        (chain Config.enc (s.read .key) (s.read .cv) (messageBlocks a (s.read .k1) (s.read .k2)))
        (messageBlocks b (s.read .k1) (s.read .k2))) ∧
      u.cv = some (chain Config.enc (s.read .key) (Block.ofBytes c) (messageBlocks b (s.read .k1) (s.read .k2))) ∧
      t.history.getLast? = some (.response (0x00#8 :: 0x08#8 :: Block.first8 (t.read .cv))) ∧
      u.history.getLast? = some (.response (0x00#8 :: 0x08#8 :: Block.first8 (u.read .cv)))

/-- 42_tag_computation.md R169: the response and the new `CV` depend on the key, the subkey the padding selects, `CV`, the
message and the collaborator, and on nothing else. -/
def Obligations.TagDependsOnKeySubkeyChainValueAndMessageOnly : Prop :=
  ∀ (m : List Byte) (s s' t t' : State), s.subkeysValid = s'.subkeysValid → s.key = s'.key → s.cv = s'.cv →
    (needsPadding m.length = true → s.k2 = s'.k2) → (needsPadding m.length = false → s.k1 = s'.k1) →
    (∀ j < numberOfBlocks m.length, s.drawAt j = s'.drawAt j) →
    exec (.tag m) s = .next t → exec (.tag m) s' = .next t' →
    t.history.getLast? = t'.history.getLast? ∧ t.cv = t'.cv

/-- 70_reset_and_hazards.md R251: `INIT`, `DERIVE`, `TAG`, from any state: the Tag is the first eight bytes of the chain over
the message's blocks from the initial chaining value, masked with the subkeys of the key. -/
def Obligations.FullSessionComputesTheTag : Prop :=
  ∀ (key cv m : List Byte) (s : State), key.length = 16 → cv.length = 16 →
    (∀ j < numberOfBlocks m.length + 1, s.drawAt j = .succeeds) →
    ∃ t, runCommands [.init key cv, .derive, .tag m] s = .next t ∧
      t.lifecycle = some .ready ∧ t.key = some (Block.ofBytes key) ∧
      t.k1 = some (dbl (Config.enc (Block.ofBytes key) z16 z16)) ∧
      t.k2 = some (dbl (dbl (Config.enc (Block.ofBytes key) z16 z16))) ∧
      t.cv = some (chain Config.enc (Block.ofBytes key) (Block.ofBytes cv)
        (messageBlocks m (dbl (Config.enc (Block.ofBytes key) z16 z16))
          (dbl (dbl (Config.enc (Block.ofBytes key) z16 z16))))) ∧
      responses t.history = responses s.history ++
        [[0x00#8, 0x00#8], [0x00#8, 0x00#8], 0x00#8 :: 0x08#8 :: Block.first8 (t.read .cv)]

/-! ## CRC32 -/

/-- 43_crc32.md R190: the four bytes of the checksum, in every state, and nothing of the session changes. -/
def Obligations.Crc32ReturnsTheChecksumAndChangesNothing : Prop :=
  ∀ (data : List Byte) (s : State),
    exec (.crc32 data) s = .next { s.settled with
      history := s.history ++ [.response (0x00#8 :: 0x04#8 :: word32Bytes (checksum data))] }

/-- 43_crc32.md R191, bit by bit. -/
def Obligations.CrcStepShiftsAndReducesByTheOldTopBit : Prop :=
  ∀ (c : Word32) (b : Bool), ∀ i < 32,
    (crcStep c b).getLsbD i =
      ((if i = 0 then b else c.getLsbD (i - 1)) ^^ (c.getLsbD 31 && (0x04C11DB7#32).getLsbD i))

/-- 43_crc32.md R193: `CRC32` emits the register most-significant byte first: result byte 0 is bits 31 to 24, byte 3 bits 7
to 0. -/
def Obligations.ChecksumBytesAreBigEndian : Prop :=
  ∀ (data : List Byte) (s : State), ∃ (t : State) (b0 b1 b2 b3 : Byte), exec (.crc32 data) s = .next t ∧
    t.history.getLast? = some (.response [0x00#8, 0x04#8, b0, b1, b2, b3]) ∧
    (checksum data).toNat = b0.toNat * 2 ^ 24 + b1.toNat * 2 ^ 16 + b2.toNat * 2 ^ 8 + b3.toNat ∧
    ∀ i < 8, b0.getLsbD i = (checksum data).getLsbD (24 + i) ∧ b1.getLsbD i = (checksum data).getLsbD (16 + i) ∧
      b2.getLsbD i = (checksum data).getLsbD (8 + i) ∧ b3.getLsbD i = (checksum data).getLsbD i

/-- 43_crc32.md R192: the flush is as if four zero bytes were appended, and every data bit is consumed in order, bit 7 of a
byte first. -/
def Obligations.FlushIsFourAppendedZeroBytes : Prop :=
  ∀ data : List Byte,
    checksum data = crcFrom 0#32 ((data ++ [0x00#8, 0x00#8, 0x00#8, 0x00#8]).map some) ∧
    checksum data = (dataBits data ++ List.replicate 32 false).foldl crcStep 0#32

/-- 43_crc32.md R194 (a), (b): zero data and leading zeros are invisible. -/
def Obligations.LeadingZeroBytesAreInvisible : Prop :=
  ∀ (m : Nat) (data : List Byte),
    checksum (List.replicate m 0x00#8 ++ data) = checksum data ∧ checksum (List.replicate m 0x00#8) = 0#32

/-- 43_crc32.md R194 (c): linear over XOR for buffers of equal length. -/
def Obligations.ChecksumIsLinear : Prop :=
  ∀ d e : List Byte, d.length = e.length →
    checksum (List.zipWith (· ^^^ ·) d e) = checksum d ^^^ checksum e

/-- 43_crc32.md R194 (d): the checksum is `D(x) * x^32 mod P(x)` over GF(2), the first bit fed the highest coefficient. -/
def Obligations.ChecksumIsThePolynomialRemainder : Prop :=
  ∀ data : List Byte,
    (∑ i ∈ Finset.range 32,
        (if (checksum data).getLsbD i then (Polynomial.X : Polynomial (ZMod 2)) ^ i else 0)) =
      ((dataBits data).foldl (fun p b => p * Polynomial.X + if b then 1 else 0) 0 * Polynomial.X ^ 32) %ₘ
        (Polynomial.X ^ 32 + ∑ i ∈ Finset.range 32,
          (if (0x04C11DB7#32).getLsbD i then (Polynomial.X : Polynomial (ZMod 2)) ^ i else 0))

/-- 43_crc32.md R194 (e): doubling a buffer keeps its checksum exactly where the checksum is zero. -/
def Obligations.DoublingKeepsOnlyAZeroChecksum : Prop :=
  ∀ data : List Byte, checksum (data ++ data) = checksum data ↔ checksum data = 0#32

/-! ## Encoding -/

/-- 30_encoding.md R91: the length fields are unsigned, big-endian, unscaled, 0 to `MAXLEN`, and every length up to `MAXLEN`
has its four bytes. -/
def Obligations.LengthFieldsAreBigEndian : Prop :=
  (∀ (op a0 a1 a2 a3 b0 b1 b2 b3 : Byte) (body : List Byte),
    ∃ h, parseHeader (op :: a0 :: a1 :: a2 :: a3 :: b0 :: b1 :: b2 :: b3 :: body) = some (h, body) ∧ h.opcode = op ∧
      h.alen = a0.toNat * 2 ^ 24 + a1.toNat * 2 ^ 16 + a2.toNat * 2 ^ 8 + a3.toNat ∧ h.alen ≤ 2 ^ 32 - 1 ∧
      h.blen = b0.toNat * 2 ^ 24 + b1.toNat * 2 ^ 16 + b2.toNat * 2 ^ 8 + b3.toNat ∧ h.blen ≤ 2 ^ 32 - 1) ∧
  (∀ n ≤ 2 ^ 32 - 1, ∃ a0 a1 a2 a3 : Byte, lengthBytes n = [a0, a1, a2, a3] ∧
    n = a0.toNat * 2 ^ 24 + a1.toNat * 2 ^ 16 + a2.toNat * 2 ^ 8 + a3.toNat)

/-- 30_encoding.md R92, R93: a header decodes to a command exactly where its 72 bits match the command's row, so to at most
one, and it is illegal exactly where they match no row. -/
def Obligations.HeaderDecodesByTheOpcodeMap : Prop :=
  ∀ h : Header, h.alen ≤ Config.maxLen → h.blen ≤ Config.maxLen →
    (∀ op : Op, decodeHeader h = .legal op ↔ h.bits &&& op.mask = op.pattern) ∧
    ((∃ why, decodeHeader h = .illegal why) ↔ ∀ op : Op, h.bits &&& op.mask ≠ op.pattern)

/-- 30_encoding.md R94: the illegal headers are those of its (a), (b), (c), and the whole frame of one is taken, nothing is
executed, no register or flag changes, no request is sent, and the answer is `05 00`. -/
def Obligations.IllegalHeadersAreSkippedAndReported : Prop :=
  (∀ h : Header, (∃ why, decodeHeader h = .illegal why) ↔
    (h.opcode = 0x00#8 ∨ 0x06#8 ≤ h.opcode) ∨
    (h.opcode = 0x02#8 ∧ (h.alen ≠ 0 ∨ h.blen ≠ 0)) ∨
    ((h.opcode = 0x03#8 ∨ h.opcode = 0x04#8 ∨ h.opcode = 0x05#8) ∧ h.blen ≠ 0)) ∧
  (∀ (s : State) (h : Header) (body : List Byte) (why : Illegal), s.resetIn = .released → s.ready = true →
    parseHeader s.cmdIn = some (h, body) → decodeHeader h = .illegal why → h.alen + h.blen ≤ body.length →
    step s = .next { s.settled with
      cmdIn := body.drop (h.alen + h.blen)
      history := s.history ++
        [.command (s.cmdIn.take (9 + h.alen + h.blen)), .response [0x05#8, 0x00#8]] })

/-- 30_encoding.md R95: the frame's length is `9 + ALEN + BLEN`, known from the ninth byte; short of nine bytes, or of that
length, there is no frame. -/
def Obligations.FramesAreSelfDelimiting : Prop :=
  ∀ bytes : List Byte,
    (decode bytes = .incomplete .header ↔ bytes.length < 9) ∧
    ∀ h body, parseHeader bytes = some (h, body) →
      bytes.length = 9 + body.length ∧
      (decode bytes = .incomplete .payload ↔ bytes.length < 9 + h.alen + h.blen) ∧
      (∀ i len, decode bytes = .instr i len → len = 9 + h.alen + h.blen ∧ i.operandA.length = h.alen ∧
        i.operandB.length = h.blen) ∧
      (∀ why len, decode bytes = .illegal why len → len = 9 + h.alen + h.blen)

/-- 30_encoding.md R90 to R95: decoding the encoding of any well-formed command, whatever follows it, gives that command
and its length. -/
def Obligations.DecodeOfEncodeIsTheCommand : Prop :=
  ∀ (i : Instr) (rest : List Byte), i.wellFormed = true →
    decode (encode i ++ rest) = .instr i (9 + i.operandA.length + i.operandB.length)

/-- 30_encoding.md R90 to R95: what decodes as a command is well formed and is that command's encoding, byte for byte. -/
def Obligations.EncodeOfDecodeIsTheFrame : Prop :=
  ∀ (bytes : List Byte) (i : Instr) (len : Nat), decode bytes = .instr i len →
    i.wellFormed = true ∧ len ≤ bytes.length ∧ encode i = bytes.take len

/-- 30_encoding.md R100: its worked encodings, read and written. -/
def Obligations.WorkedEncodings : Prop :=
  (decode [0x02#8, 0x00#8, 0x00#8, 0x00#8, 0x00#8, 0x00#8, 0x00#8, 0x00#8, 0x00#8] = .instr .derive 9 ∧
    encode .derive = [0x02#8, 0x00#8, 0x00#8, 0x00#8, 0x00#8, 0x00#8, 0x00#8, 0x00#8, 0x00#8]) ∧
  (decode [0x03#8, 0x00#8, 0x00#8, 0x00#8, 0x02#8, 0x00#8, 0x00#8, 0x00#8, 0x00#8, 0x6C#8, 0x00#8] =
      .instr (.tag [0x6C#8, 0x00#8]) 11 ∧
    encode (.tag [0x6C#8, 0x00#8]) =
      [0x03#8, 0x00#8, 0x00#8, 0x00#8, 0x02#8, 0x00#8, 0x00#8, 0x00#8, 0x00#8, 0x6C#8, 0x00#8]) ∧
  (decode [0x05#8, 0x00#8, 0x00#8, 0x00#8, 0x00#8, 0x00#8, 0x00#8, 0x00#8, 0x00#8] = .instr (.crc32 []) 9 ∧
    encode (.crc32 []) = [0x05#8, 0x00#8, 0x00#8, 0x00#8, 0x00#8, 0x00#8, 0x00#8, 0x00#8, 0x00#8]) ∧
  (∀ key cv : List Byte,
    key = [0x32#8, 0x01#8, 0x9B#8, 0xE4#8, 0xBC#8, 0x09#8, 0xA5#8, 0x20#8,
      0x7A#8, 0xC7#8, 0xC6#8, 0x38#8, 0x65#8, 0xC2#8, 0x02#8, 0xA4#8] → cv = List.replicate 16 0x00#8 →
    decode ([0x01#8, 0x00#8, 0x00#8, 0x00#8, 0x10#8, 0x00#8, 0x00#8, 0x00#8, 0x10#8] ++ key ++ cv) =
        .instr (.init key cv) 41 ∧
      encode (.init key cv) =
        [0x01#8, 0x00#8, 0x00#8, 0x00#8, 0x10#8, 0x00#8, 0x00#8, 0x00#8, 0x10#8] ++ key ++ cv) ∧
  Response.bytes ⟨0x00#8, [0x11#8, 0xD5#8, 0x87#8, 0xF6#8, 0x96#8, 0xB4#8, 0xE9#8, 0x9F#8]⟩ =
    [0x00#8, 0x08#8, 0x11#8, 0xD5#8, 0x87#8, 0xF6#8, 0x96#8, 0xB4#8, 0xE9#8, 0x9F#8] ∧
  Response.bytes ⟨CmdError.status .uninitializedSubkeys, CmdError.info .uninitializedSubkeys⟩ = [0x03#8, 0x00#8]

/-! ## The step -/

/-- 20_memory.md R61, R63; 10_state.md R33: where the bytes at the command port decode to a command, the step is that
command's `exec` on the state with exactly the frame's bytes taken, the sequencer past `PAYLOAD`, and the frame observed. -/
def Obligations.StepRunsTheDecodedCommand : Prop :=
  ∀ (s : State) (i : Instr) (len : Nat), s.resetIn = .released → s.ready = true → decode s.cmdIn = .instr i len →
    step s = exec i { s with
      seq := .payload
      cmdIn := s.cmdIn.drop len
      history := s.history ++ [.command (s.cmdIn.take len)] }

/-- 20_memory.md R61; 30_encoding.md R90: a well-formed command, offered as its frame to an idle block, is executed by the
next step, and the bytes after the frame stay offered. -/
def Obligations.StepExecutesAnOfferedFrame : Prop :=
  ∀ (s : State) (i : Instr) (rest : List Byte), s.Quiet → s.resetIn = .released → s.cmdIn = [] → i.wellFormed = true →
    step (s.offer (encode i ++ rest)) =
      exec i { s with seq := .payload, cmdIn := rest, history := s.history ++ [.command (encode i)] }

/-- 10_state.md R36, 93_implementation_defined.md U10: the step waits where nothing is offered, it has no next state only
inside a frame or inside a command where no reset lands, and it refuses nothing (the faults' names are the model's, log
entries 5 and 13). -/
def Obligations.StepStopsOnlyInsideAFrameOrACommand : Prop :=
  (∀ s : State, (∀ taken, s.resetIn ≠ .beforeCommand taken) → s.ready = true → s.cmdIn = [] → step s = .next s) ∧
  (∀ (s : State) (f : Fault), step s = .fault f ↔ (∀ taken, s.resetIn ≠ .beforeCommand taken) ∧
    ((s.ready = false ∧ f = .notIdle) ∨
      (s.ready = true ∧ s.cmdIn ≠ [] ∧ (∃ why, decode s.cmdIn = .incomplete why) ∧ f = .stuckInsideFrame))) ∧
  (∀ (s : State) (r : Refusal), step s ≠ .refused r)

/-- 10_state.md R36, 70_reset_and_hazards.md R250: the reset event gives the reset table from every state, without a response.
What it leaves offered at the command port is the model's choice (log entry 12): the `taken` bytes of an unfinished frame are
lost, of a frame with a legal header and with an illegal one alike, never a whole frame and never more than was offered; the
rest stays; a block that is not ready has taken none. The reset is observed. -/
def Obligations.ResetEventGivesTheResetTable : Prop :=
  ∀ (s : State) (taken : Nat), s.resetIn = .beforeCommand taken → ∃ t, step s = .next t ∧ t.Quiet ∧
    t.key = none ∧ t.cv = none ∧ t.k1 = none ∧ t.k2 = none ∧ t.keyValid = false ∧ t.subkeysValid = false ∧
    t.resetIn = .released ∧ t.history = s.history ++ [.reset] ∧
    t.cmdIn = s.cmdIn.drop (min taken s.frameRoom) ∧
    (s.ready = false → t.cmdIn = s.cmdIn) ∧
    (s.ready = true → ∀ i len, decode s.cmdIn = .instr i len → t.cmdIn = s.cmdIn.drop (min taken (len - 1))) ∧
    (s.ready = true → ∀ why len, decode s.cmdIn = .illegal why len → t.cmdIn = s.cmdIn.drop (min taken (len - 1))) ∧
    (s.ready = true → ∀ where_, decode s.cmdIn = .incomplete where_ → t.cmdIn = s.cmdIn.drop taken) ∧
    (t.cmdIn = [] → step t = .next t)

/-- 70_reset_and_hazards.md R250: a reset inside a command abandons it: the first `n` of the requests and answers it would have
made have happened (all of them where it makes fewer), no response is emitted, the state is the reset state and not any
mixture, and the frames after it stay offered (the model's choice, log entry 12). A frame with an illegal header makes no
request, and a reset before its response leaves that response out too (30_encoding.md R94). -/
def Obligations.ResetInsideACommandAbandonsIt : Prop :=
  (∀ (s : State) (i : Instr) (len n : Nat), s.resetIn = .duringCommand n → s.ready = true →
    decode s.cmdIn = .instr i len →
    ∃ t u events rest r, step s = .next t ∧ t.Quiet ∧
      t.key = none ∧ t.cv = none ∧ t.k1 = none ∧ t.k2 = none ∧ t.keyValid = false ∧ t.subkeysValid = false ∧
      t.resetIn = .released ∧ t.cmdIn = s.cmdIn.drop len ∧
      t.history = s.history ++ [.command (s.cmdIn.take len)] ++ events ++ [.reset] ∧ responses events = [] ∧
      exec i (s.takeFrame len) = .next u ∧
      u.history = s.history ++ [.command (s.cmdIn.take len)] ++ events ++ rest ++ [.response r] ∧
      (events.length = n ∨ (events.length < n ∧ rest = []))) ∧
  (∀ (s : State) (why : Illegal) (len n : Nat), s.resetIn = .duringCommand n → s.ready = true →
    decode s.cmdIn = .illegal why len →
    ∃ t, step s = .next t ∧ t.Quiet ∧
      t.key = none ∧ t.cv = none ∧ t.k1 = none ∧ t.k2 = none ∧ t.keyValid = false ∧ t.subkeysValid = false ∧
      t.resetIn = .released ∧ t.cmdIn = s.cmdIn.drop len ∧
      t.history = s.history ++ [.command (s.cmdIn.take len), .reset])

/-! ## Every command -/

/-- 20_memory.md R59, R62; 30_encoding.md R96 to R98; 60_exceptions.md R216: every command, in every state, is answered by
exactly one response, which is a row of the response table, and leaves the block between commands. The environment's fields
`cmdIn`, `resetIn` and `cipherPort`, which it leaves alone, are the model's (log entries 10, 11, 12). -/
def Obligations.EveryCommandIsAnsweredOnce : Prop :=
  ∀ (i : Instr) (s : State), ∃ t events r, exec i s = .next t ∧
    t.history = s.history ++ events ++ [.response r] ∧ responses events = [] ∧ LegalResponse r ∧ t.Quiet ∧
    t.cmdIn = s.cmdIn ∧ t.resetIn = s.resetIn ∧ t.cipherPort = s.cipherPort

/-- 20_memory.md R64, R69, R70: every request carries `KEY` and a zero IV, and the counts are those of R70. That `drawIndex`
counts the requests is the model's bookkeeping (log entry 3). -/
def Obligations.RequestsCarryTheKeyAndAZeroIv : Prop :=
  ∀ (i : Instr) (s t : State), exec i s = .next t →
    ∃ qs, requests t.history = requests s.history ++ qs ∧ t.drawIndex = s.drawIndex + qs.length ∧
      (∀ q ∈ qs, q.key = s.read .key ∧ q.iv = z16) ∧
      (∀ key cv, i = .init key cv → qs = []) ∧ (∀ value, i = .setcv value → qs = []) ∧
      (∀ data, i = .crc32 data → qs = []) ∧
      (i = .derive → qs = if s.keyValid then [⟨s.read .key, z16, z16⟩] else []) ∧
      (∀ m, i = .tag m → qs.length ≤ (if s.subkeysValid then numberOfBlocks m.length else 0) ∧
        (AnswersWith (exec i s) 0x00#8 → qs.length = numberOfBlocks m.length))

/-- 10_state.md R37, R21 to R23: which registers and flags a command may change. A fatal error takes every value and both
flags; any other error changes nothing; on success `KEY` and `KEY_VALID` are `INIT`'s, `K1`, `K2` and `SUBKEYS_VALID` are
`INIT`'s and `DERIVE`'s, and `CV` is `INIT`'s, `SETCV`'s and `TAG`'s. -/
def Obligations.RegisterAccessTable : Prop :=
  ∀ (i : Instr) (s t : State) (st : Byte), exec i s = .next t → AnswersWith (exec i s) st →
    ((st = 0x01#8 ∨ st = 0x02#8) → t.key = none ∧ t.cv = none ∧ t.k1 = none ∧ t.k2 = none ∧
      t.keyValid = false ∧ t.subkeysValid = false) ∧
    ((st = 0x03#8 ∨ st = 0x04#8) → t.key = s.key ∧ t.cv = s.cv ∧ t.k1 = s.k1 ∧ t.k2 = s.k2 ∧
      t.keyValid = s.keyValid ∧ t.subkeysValid = s.subkeysValid) ∧
    (st = 0x00#8 →
      (i.op ≠ .init → t.key = s.key ∧ t.keyValid = s.keyValid) ∧
      (i.op ≠ .init → i.op ≠ .derive → t.k1 = s.k1 ∧ t.k2 = s.k2 ∧ t.subkeysValid = s.subkeysValid) ∧
      (i.op ≠ .init → i.op ≠ .setcv → i.op ≠ .tag → t.cv = s.cv))

/-- 40_session_commands.md R122: the transitions between *empty*, *keyed* and *ready*. -/
def Obligations.LifecycleTransitions : Prop :=
  (∀ (i : Instr) (s : State), ∃ t st body, exec i s = .next t ∧
    t.history.getLast? = some (.response (st :: body)) ∧
    t.lifecycle =
      if st = 0x01#8 ∨ st = 0x02#8 then some .empty
      else if st = 0x00#8 ∧ i.op = .init then some .keyed
      else if st = 0x00#8 ∧ i.op = .derive then some .ready
      else s.lifecycle) ∧
  (∀ s : State, (s.raise .illegalCommand).lifecycle = s.lifecycle ∧ s.applyReset.lifecycle = some .empty)

/-- 60_exceptions.md R220: which error a command reports. -/
def Obligations.FirstErrorInOrderIsReported : Prop :=
  (∀ (s : State) (why : Illegal) (len : Nat), s.resetIn = .released → s.ready = true →
    decode s.cmdIn = .illegal why len → AnswersWith (step s) 0x05#8) ∧
  (∀ (key cv : List Byte) (s : State), AnswersWith (exec (.init key cv) s)
    (if key.length ≠ 16 then 0x01#8 else if cv.length ≠ 16 then 0x02#8 else 0x00#8)) ∧
  (∀ s : State, AnswersWith (exec .derive s)
    (if s.keyValid = false then 0x01#8 else if s.drawAt 0 = .succeeds then 0x00#8 else 0x04#8)) ∧
  (∀ (m : List Byte) (s : State), AnswersWith (exec (.tag m) s)
    (if s.subkeysValid = false then 0x03#8
      else if (List.range (numberOfBlocks m.length)).all (fun j => s.drawAt j = .succeeds) then 0x00#8 else 0x04#8)) ∧
  (∀ (value : List Byte) (s : State), AnswersWith (exec (.setcv value) s)
    (if value.length ≠ 16 then 0x02#8 else 0x00#8)) ∧
  (∀ (data : List Byte) (s : State), AnswersWith (exec (.crc32 data) s) 0x00#8)

/-- 60_exceptions.md R222: from *empty*, no sequence of commands without an `INIT` leaves *empty*; there `TAG` answers
`UninitializedSubkeys` and `DERIVE` answers `InvalidKeyLength`, while `SETCV` and `CRC32` work. -/
def Obligations.OnlyInitRevivesASession : Prop :=
  ∀ (commands : List Instr) (s : State), (∀ i ∈ commands, i.op ≠ .init) → s.lifecycle = some .empty →
    ∃ t, runCommands commands s = .next t ∧ t.lifecycle = some .empty ∧
      (∀ m, AnswersWith (exec (.tag m) t) 0x03#8) ∧ AnswersWith (exec .derive t) 0x01#8 ∧
      (∀ value, value.length = 16 → AnswersWith (exec (.setcv value) t) 0x00#8) ∧
      (∀ data, AnswersWith (exec (.crc32 data) t) 0x00#8)

/-- 10_state.md R38: apart from the Tag, no response tells anything of what `KEY`, `CV`, `K1` or `K2` hold. -/
def Obligations.ResponsesDoNotRevealTheRegisters : Prop :=
  ∀ (i : Instr) (s s' t t' : State), i.op ≠ .tag → s.keyValid = s'.keyValid → s.drawAt 0 = s'.drawAt 0 →
    exec i s = .next t → exec i s' = .next t' → t.history.getLast? = t'.history.getLast?

/-! ## Invariants -/

/-- 10_state.md R24, R28, R36: after reset the invariants hold, for one instance and for each of the system's. -/
def Obligations.InvariantsHoldAfterReset : Prop :=
  (State.reset.SessionInv ∧ State.reset.Quiet ∧ HistoryComplete State.reset.history) ∧
  ∀ s ∈ System.reset.sessions, s.SessionInv ∧ s.Quiet ∧ HistoryComplete s.history

/-- 10_state.md R24, R28, R29: every step keeps the session invariant: subkeys only with a key, valid flags only with held
values, and held subkeys always those of the current key. -/
def Obligations.SessionInvariantIsKeptByEveryStep : Prop :=
  ∀ s t : State, s.SessionInv → step s = .next t → t.SessionInv

/-- 20_memory.md R62, R63, R67, R69, R70: every step leaves the block between commands and the history a sequence of complete
exchanges: a frame, requests each with its answer, none after a failure, one response; a reset ends an exchange
(70_reset_and_hazards.md R250). -/
def Obligations.HistoryStaysCompleteUnderEveryStep : Prop :=
  ∀ s t : State, s.Quiet → HistoryComplete s.history → step s = .next t → t.Quiet ∧ HistoryComplete t.history

/-- 30_encoding.md R97, R98: every step keeps all responses emitted so far legal: statuses 00 to 05 only, each with the
result length of the table. -/
def Obligations.ResponsesStayLegalUnderEveryStep : Prop :=
  ∀ s t : State, (∀ r ∈ responses s.history, LegalResponse r) → step s = .next t →
    ∀ r ∈ responses t.history, LegalResponse r

/-! ## Instances -/

/-- 10_state.md R39, 20_memory.md R73: the step of an instance is a step of its own state alone, and no other instance is
touched. -/
def Obligations.InstancesShareNothing : Prop :=
  ∀ (n : Nat) (sys sys' : System), sys.stepInstance n = .next sys' →
    (∃ s t, sys.sessions[n]? = some s ∧ step s = .next t ∧ sys'.sessions[n]? = some t) ∧
    (∀ m, m ≠ n → sys'.sessions[m]? = sys.sessions[m]?) ∧ sys'.sessions.length = sys.sessions.length

/-- 20_memory.md R73: steps of two instances may be taken in either order with the same result. -/
def Obligations.StepsOfTwoInstancesCommute : Prop :=
  ∀ (n m : Nat) (sys sysN sysNM : System), n ≠ m →
    sys.stepInstance n = .next sysN → sysN.stepInstance m = .next sysNM →
    ∃ sysM, sys.stepInstance m = .next sysM ∧ sysM.stepInstance n = .next sysNM

/-- 60_exceptions.md R231, 70_reset_and_hazards.md R250: at least one instance is built, each empty and idle after reset on a
cipher port of its own, and the reset event puts every instance in the reset state at once. -/
def Obligations.ResetReachesEveryInstance : Prop :=
  (1 ≤ System.reset.sessions.length ∧
    ∀ (n : Nat) (s : State), System.reset.sessions[n]? = some s → s.Quiet ∧ s.lifecycle = some .empty ∧ s.cipherPort = n) ∧
  (∀ sys : System, sys.resetAll.sessions.length = sys.sessions.length ∧
    ∀ (n : Nat) (t : State), sys.resetAll.sessions[n]? = some t → t.Quiet ∧ t.lifecycle = some .empty ∧
      t.key = none ∧ t.cv = none ∧ t.k1 = none ∧ t.k2 = none)
end

