-- ==== Sys2Proof/Laws/State.lean ====
section
/-! SUPPORT. What each update of the state leaves in each field, every equation true by rfl: one theorem per update, a
conjunction over the fields, so that no later proof unfolds a record update. -/

namespace Sys2Proof.Machine

/-- Writing the flags changes the two flags alone. -/
@[simp] theorem State.setFlags_fields (kv sv : Bool) (s : State) :
      (s.setFlags kv sv).key = s.key ∧
      (s.setFlags kv sv).cv = s.cv ∧
      (s.setFlags kv sv).k1 = s.k1 ∧
      (s.setFlags kv sv).k2 = s.k2 ∧
      (s.setFlags kv sv).keyValid = kv ∧
      (s.setFlags kv sv).subkeysValid = sv ∧
      (s.setFlags kv sv).w = s.w ∧
      (s.setFlags kv sv).crcReg = s.crcReg ∧
      (s.setFlags kv sv).seq = s.seq ∧
      (s.setFlags kv sv).operandA = s.operandA ∧
      (s.setFlags kv sv).operandB = s.operandB ∧
      (s.setFlags kv sv).outstanding = s.outstanding ∧
      (s.setFlags kv sv).pendingResponse = s.pendingResponse ∧
      (s.setFlags kv sv).cmdIn = s.cmdIn ∧
      (s.setFlags kv sv).resetIn = s.resetIn ∧
      (s.setFlags kv sv).draws = s.draws ∧
      (s.setFlags kv sv).drawIndex = s.drawIndex ∧
      (s.setFlags kv sv).cipherPort = s.cipherPort ∧
      (s.setFlags kv sv).history = s.history := by
  refine ⟨rfl, rfl, rfl, rfl, rfl, rfl, rfl, rfl, rfl, rfl, rfl, rfl, rfl, rfl, rfl, rfl, rfl, rfl, rfl⟩

/-- `put` on `key` changes that register alone. -/
@[simp] theorem State.put_key_fields (v : Option Block) (s : State) :
      (s.put .key v).key = v ∧
      (s.put .key v).cv = s.cv ∧
      (s.put .key v).k1 = s.k1 ∧
      (s.put .key v).k2 = s.k2 ∧
      (s.put .key v).keyValid = s.keyValid ∧
      (s.put .key v).subkeysValid = s.subkeysValid ∧
      (s.put .key v).w = s.w ∧
      (s.put .key v).crcReg = s.crcReg ∧
      (s.put .key v).seq = s.seq ∧
      (s.put .key v).operandA = s.operandA ∧
      (s.put .key v).operandB = s.operandB ∧
      (s.put .key v).outstanding = s.outstanding ∧
      (s.put .key v).pendingResponse = s.pendingResponse ∧
      (s.put .key v).cmdIn = s.cmdIn ∧
      (s.put .key v).resetIn = s.resetIn ∧
      (s.put .key v).draws = s.draws ∧
      (s.put .key v).drawIndex = s.drawIndex ∧
      (s.put .key v).cipherPort = s.cipherPort ∧
      (s.put .key v).history = s.history := by
  refine ⟨rfl, rfl, rfl, rfl, rfl, rfl, rfl, rfl, rfl, rfl, rfl, rfl, rfl, rfl, rfl, rfl, rfl, rfl, rfl⟩

/-- `put` on `cv` changes that register alone. -/
@[simp] theorem State.put_cv_fields (v : Option Block) (s : State) :
      (s.put .cv v).key = s.key ∧
      (s.put .cv v).cv = v ∧
      (s.put .cv v).k1 = s.k1 ∧
      (s.put .cv v).k2 = s.k2 ∧
      (s.put .cv v).keyValid = s.keyValid ∧
      (s.put .cv v).subkeysValid = s.subkeysValid ∧
      (s.put .cv v).w = s.w ∧
      (s.put .cv v).crcReg = s.crcReg ∧
      (s.put .cv v).seq = s.seq ∧
      (s.put .cv v).operandA = s.operandA ∧
      (s.put .cv v).operandB = s.operandB ∧
      (s.put .cv v).outstanding = s.outstanding ∧
      (s.put .cv v).pendingResponse = s.pendingResponse ∧
      (s.put .cv v).cmdIn = s.cmdIn ∧
      (s.put .cv v).resetIn = s.resetIn ∧
      (s.put .cv v).draws = s.draws ∧
      (s.put .cv v).drawIndex = s.drawIndex ∧
      (s.put .cv v).cipherPort = s.cipherPort ∧
      (s.put .cv v).history = s.history := by
  refine ⟨rfl, rfl, rfl, rfl, rfl, rfl, rfl, rfl, rfl, rfl, rfl, rfl, rfl, rfl, rfl, rfl, rfl, rfl, rfl⟩

/-- `put` on `k1` changes that register alone. -/
@[simp] theorem State.put_k1_fields (v : Option Block) (s : State) :
      (s.put .k1 v).key = s.key ∧
      (s.put .k1 v).cv = s.cv ∧
      (s.put .k1 v).k1 = v ∧
      (s.put .k1 v).k2 = s.k2 ∧
      (s.put .k1 v).keyValid = s.keyValid ∧
      (s.put .k1 v).subkeysValid = s.subkeysValid ∧
      (s.put .k1 v).w = s.w ∧
      (s.put .k1 v).crcReg = s.crcReg ∧
      (s.put .k1 v).seq = s.seq ∧
      (s.put .k1 v).operandA = s.operandA ∧
      (s.put .k1 v).operandB = s.operandB ∧
      (s.put .k1 v).outstanding = s.outstanding ∧
      (s.put .k1 v).pendingResponse = s.pendingResponse ∧
      (s.put .k1 v).cmdIn = s.cmdIn ∧
      (s.put .k1 v).resetIn = s.resetIn ∧
      (s.put .k1 v).draws = s.draws ∧
      (s.put .k1 v).drawIndex = s.drawIndex ∧
      (s.put .k1 v).cipherPort = s.cipherPort ∧
      (s.put .k1 v).history = s.history := by
  refine ⟨rfl, rfl, rfl, rfl, rfl, rfl, rfl, rfl, rfl, rfl, rfl, rfl, rfl, rfl, rfl, rfl, rfl, rfl, rfl⟩

/-- `put` on `k2` changes that register alone. -/
@[simp] theorem State.put_k2_fields (v : Option Block) (s : State) :
      (s.put .k2 v).key = s.key ∧
      (s.put .k2 v).cv = s.cv ∧
      (s.put .k2 v).k1 = s.k1 ∧
      (s.put .k2 v).k2 = v ∧
      (s.put .k2 v).keyValid = s.keyValid ∧
      (s.put .k2 v).subkeysValid = s.subkeysValid ∧
      (s.put .k2 v).w = s.w ∧
      (s.put .k2 v).crcReg = s.crcReg ∧
      (s.put .k2 v).seq = s.seq ∧
      (s.put .k2 v).operandA = s.operandA ∧
      (s.put .k2 v).operandB = s.operandB ∧
      (s.put .k2 v).outstanding = s.outstanding ∧
      (s.put .k2 v).pendingResponse = s.pendingResponse ∧
      (s.put .k2 v).cmdIn = s.cmdIn ∧
      (s.put .k2 v).resetIn = s.resetIn ∧
      (s.put .k2 v).draws = s.draws ∧
      (s.put .k2 v).drawIndex = s.drawIndex ∧
      (s.put .k2 v).cipherPort = s.cipherPort ∧
      (s.put .k2 v).history = s.history := by
  refine ⟨rfl, rfl, rfl, rfl, rfl, rfl, rfl, rfl, rfl, rfl, rfl, rfl, rfl, rfl, rfl, rfl, rfl, rfl, rfl⟩

/-- `put` on `w` changes that register alone. -/
@[simp] theorem State.put_w_fields (v : Option Block) (s : State) :
      (s.put .w v).key = s.key ∧
      (s.put .w v).cv = s.cv ∧
      (s.put .w v).k1 = s.k1 ∧
      (s.put .w v).k2 = s.k2 ∧
      (s.put .w v).keyValid = s.keyValid ∧
      (s.put .w v).subkeysValid = s.subkeysValid ∧
      (s.put .w v).w = v ∧
      (s.put .w v).crcReg = s.crcReg ∧
      (s.put .w v).seq = s.seq ∧
      (s.put .w v).operandA = s.operandA ∧
      (s.put .w v).operandB = s.operandB ∧
      (s.put .w v).outstanding = s.outstanding ∧
      (s.put .w v).pendingResponse = s.pendingResponse ∧
      (s.put .w v).cmdIn = s.cmdIn ∧
      (s.put .w v).resetIn = s.resetIn ∧
      (s.put .w v).draws = s.draws ∧
      (s.put .w v).drawIndex = s.drawIndex ∧
      (s.put .w v).cipherPort = s.cipherPort ∧
      (s.put .w v).history = s.history := by
  refine ⟨rfl, rfl, rfl, rfl, rfl, rfl, rfl, rfl, rfl, rfl, rfl, rfl, rfl, rfl, rfl, rfl, rfl, rfl, rfl⟩

/-- `write` on `key` changes that register alone. -/
@[simp] theorem State.write_key_fields (v : Block) (s : State) :
      (s.write .key v).key = some v ∧
      (s.write .key v).cv = s.cv ∧
      (s.write .key v).k1 = s.k1 ∧
      (s.write .key v).k2 = s.k2 ∧
      (s.write .key v).keyValid = s.keyValid ∧
      (s.write .key v).subkeysValid = s.subkeysValid ∧
      (s.write .key v).w = s.w ∧
      (s.write .key v).crcReg = s.crcReg ∧
      (s.write .key v).seq = s.seq ∧
      (s.write .key v).operandA = s.operandA ∧
      (s.write .key v).operandB = s.operandB ∧
      (s.write .key v).outstanding = s.outstanding ∧
      (s.write .key v).pendingResponse = s.pendingResponse ∧
      (s.write .key v).cmdIn = s.cmdIn ∧
      (s.write .key v).resetIn = s.resetIn ∧
      (s.write .key v).draws = s.draws ∧
      (s.write .key v).drawIndex = s.drawIndex ∧
      (s.write .key v).cipherPort = s.cipherPort ∧
      (s.write .key v).history = s.history := by
  refine ⟨rfl, rfl, rfl, rfl, rfl, rfl, rfl, rfl, rfl, rfl, rfl, rfl, rfl, rfl, rfl, rfl, rfl, rfl, rfl⟩

/-- `write` on `cv` changes that register alone. -/
@[simp] theorem State.write_cv_fields (v : Block) (s : State) :
      (s.write .cv v).key = s.key ∧
      (s.write .cv v).cv = some v ∧
      (s.write .cv v).k1 = s.k1 ∧
      (s.write .cv v).k2 = s.k2 ∧
      (s.write .cv v).keyValid = s.keyValid ∧
      (s.write .cv v).subkeysValid = s.subkeysValid ∧
      (s.write .cv v).w = s.w ∧
      (s.write .cv v).crcReg = s.crcReg ∧
      (s.write .cv v).seq = s.seq ∧
      (s.write .cv v).operandA = s.operandA ∧
      (s.write .cv v).operandB = s.operandB ∧
      (s.write .cv v).outstanding = s.outstanding ∧
      (s.write .cv v).pendingResponse = s.pendingResponse ∧
      (s.write .cv v).cmdIn = s.cmdIn ∧
      (s.write .cv v).resetIn = s.resetIn ∧
      (s.write .cv v).draws = s.draws ∧
      (s.write .cv v).drawIndex = s.drawIndex ∧
      (s.write .cv v).cipherPort = s.cipherPort ∧
      (s.write .cv v).history = s.history := by
  refine ⟨rfl, rfl, rfl, rfl, rfl, rfl, rfl, rfl, rfl, rfl, rfl, rfl, rfl, rfl, rfl, rfl, rfl, rfl, rfl⟩

/-- `write` on `k1` changes that register alone. -/
@[simp] theorem State.write_k1_fields (v : Block) (s : State) :
      (s.write .k1 v).key = s.key ∧
      (s.write .k1 v).cv = s.cv ∧
      (s.write .k1 v).k1 = some v ∧
      (s.write .k1 v).k2 = s.k2 ∧
      (s.write .k1 v).keyValid = s.keyValid ∧
      (s.write .k1 v).subkeysValid = s.subkeysValid ∧
      (s.write .k1 v).w = s.w ∧
      (s.write .k1 v).crcReg = s.crcReg ∧
      (s.write .k1 v).seq = s.seq ∧
      (s.write .k1 v).operandA = s.operandA ∧
      (s.write .k1 v).operandB = s.operandB ∧
      (s.write .k1 v).outstanding = s.outstanding ∧
      (s.write .k1 v).pendingResponse = s.pendingResponse ∧
      (s.write .k1 v).cmdIn = s.cmdIn ∧
      (s.write .k1 v).resetIn = s.resetIn ∧
      (s.write .k1 v).draws = s.draws ∧
      (s.write .k1 v).drawIndex = s.drawIndex ∧
      (s.write .k1 v).cipherPort = s.cipherPort ∧
      (s.write .k1 v).history = s.history := by
  refine ⟨rfl, rfl, rfl, rfl, rfl, rfl, rfl, rfl, rfl, rfl, rfl, rfl, rfl, rfl, rfl, rfl, rfl, rfl, rfl⟩

/-- `write` on `k2` changes that register alone. -/
@[simp] theorem State.write_k2_fields (v : Block) (s : State) :
      (s.write .k2 v).key = s.key ∧
      (s.write .k2 v).cv = s.cv ∧
      (s.write .k2 v).k1 = s.k1 ∧
      (s.write .k2 v).k2 = some v ∧
      (s.write .k2 v).keyValid = s.keyValid ∧
      (s.write .k2 v).subkeysValid = s.subkeysValid ∧
      (s.write .k2 v).w = s.w ∧
      (s.write .k2 v).crcReg = s.crcReg ∧
      (s.write .k2 v).seq = s.seq ∧
      (s.write .k2 v).operandA = s.operandA ∧
      (s.write .k2 v).operandB = s.operandB ∧
      (s.write .k2 v).outstanding = s.outstanding ∧
      (s.write .k2 v).pendingResponse = s.pendingResponse ∧
      (s.write .k2 v).cmdIn = s.cmdIn ∧
      (s.write .k2 v).resetIn = s.resetIn ∧
      (s.write .k2 v).draws = s.draws ∧
      (s.write .k2 v).drawIndex = s.drawIndex ∧
      (s.write .k2 v).cipherPort = s.cipherPort ∧
      (s.write .k2 v).history = s.history := by
  refine ⟨rfl, rfl, rfl, rfl, rfl, rfl, rfl, rfl, rfl, rfl, rfl, rfl, rfl, rfl, rfl, rfl, rfl, rfl, rfl⟩

/-- `write` on `w` changes that register alone. -/
@[simp] theorem State.write_w_fields (v : Block) (s : State) :
      (s.write .w v).key = s.key ∧
      (s.write .w v).cv = s.cv ∧
      (s.write .w v).k1 = s.k1 ∧
      (s.write .w v).k2 = s.k2 ∧
      (s.write .w v).keyValid = s.keyValid ∧
      (s.write .w v).subkeysValid = s.subkeysValid ∧
      (s.write .w v).w = some v ∧
      (s.write .w v).crcReg = s.crcReg ∧
      (s.write .w v).seq = s.seq ∧
      (s.write .w v).operandA = s.operandA ∧
      (s.write .w v).operandB = s.operandB ∧
      (s.write .w v).outstanding = s.outstanding ∧
      (s.write .w v).pendingResponse = s.pendingResponse ∧
      (s.write .w v).cmdIn = s.cmdIn ∧
      (s.write .w v).resetIn = s.resetIn ∧
      (s.write .w v).draws = s.draws ∧
      (s.write .w v).drawIndex = s.drawIndex ∧
      (s.write .w v).cipherPort = s.cipherPort ∧
      (s.write .w v).history = s.history := by
  refine ⟨rfl, rfl, rfl, rfl, rfl, rfl, rfl, rfl, rfl, rfl, rfl, rfl, rfl, rfl, rfl, rfl, rfl, rfl, rfl⟩

/-- `lose` on `key` changes that register alone. -/
@[simp] theorem State.lose_key_fields (s : State) :
      (s.lose .key).key = none ∧
      (s.lose .key).cv = s.cv ∧
      (s.lose .key).k1 = s.k1 ∧
      (s.lose .key).k2 = s.k2 ∧
      (s.lose .key).keyValid = s.keyValid ∧
      (s.lose .key).subkeysValid = s.subkeysValid ∧
      (s.lose .key).w = s.w ∧
      (s.lose .key).crcReg = s.crcReg ∧
      (s.lose .key).seq = s.seq ∧
      (s.lose .key).operandA = s.operandA ∧
      (s.lose .key).operandB = s.operandB ∧
      (s.lose .key).outstanding = s.outstanding ∧
      (s.lose .key).pendingResponse = s.pendingResponse ∧
      (s.lose .key).cmdIn = s.cmdIn ∧
      (s.lose .key).resetIn = s.resetIn ∧
      (s.lose .key).draws = s.draws ∧
      (s.lose .key).drawIndex = s.drawIndex ∧
      (s.lose .key).cipherPort = s.cipherPort ∧
      (s.lose .key).history = s.history := by
  refine ⟨rfl, rfl, rfl, rfl, rfl, rfl, rfl, rfl, rfl, rfl, rfl, rfl, rfl, rfl, rfl, rfl, rfl, rfl, rfl⟩

/-- `lose` on `cv` changes that register alone. -/
@[simp] theorem State.lose_cv_fields (s : State) :
      (s.lose .cv).key = s.key ∧
      (s.lose .cv).cv = none ∧
      (s.lose .cv).k1 = s.k1 ∧
      (s.lose .cv).k2 = s.k2 ∧
      (s.lose .cv).keyValid = s.keyValid ∧
      (s.lose .cv).subkeysValid = s.subkeysValid ∧
      (s.lose .cv).w = s.w ∧
      (s.lose .cv).crcReg = s.crcReg ∧
      (s.lose .cv).seq = s.seq ∧
      (s.lose .cv).operandA = s.operandA ∧
      (s.lose .cv).operandB = s.operandB ∧
      (s.lose .cv).outstanding = s.outstanding ∧
      (s.lose .cv).pendingResponse = s.pendingResponse ∧
      (s.lose .cv).cmdIn = s.cmdIn ∧
      (s.lose .cv).resetIn = s.resetIn ∧
      (s.lose .cv).draws = s.draws ∧
      (s.lose .cv).drawIndex = s.drawIndex ∧
      (s.lose .cv).cipherPort = s.cipherPort ∧
      (s.lose .cv).history = s.history := by
  refine ⟨rfl, rfl, rfl, rfl, rfl, rfl, rfl, rfl, rfl, rfl, rfl, rfl, rfl, rfl, rfl, rfl, rfl, rfl, rfl⟩

/-- `lose` on `k1` changes that register alone. -/
@[simp] theorem State.lose_k1_fields (s : State) :
      (s.lose .k1).key = s.key ∧
      (s.lose .k1).cv = s.cv ∧
      (s.lose .k1).k1 = none ∧
      (s.lose .k1).k2 = s.k2 ∧
      (s.lose .k1).keyValid = s.keyValid ∧
      (s.lose .k1).subkeysValid = s.subkeysValid ∧
      (s.lose .k1).w = s.w ∧
      (s.lose .k1).crcReg = s.crcReg ∧
      (s.lose .k1).seq = s.seq ∧
      (s.lose .k1).operandA = s.operandA ∧
      (s.lose .k1).operandB = s.operandB ∧
      (s.lose .k1).outstanding = s.outstanding ∧
      (s.lose .k1).pendingResponse = s.pendingResponse ∧
      (s.lose .k1).cmdIn = s.cmdIn ∧
      (s.lose .k1).resetIn = s.resetIn ∧
      (s.lose .k1).draws = s.draws ∧
      (s.lose .k1).drawIndex = s.drawIndex ∧
      (s.lose .k1).cipherPort = s.cipherPort ∧
      (s.lose .k1).history = s.history := by
  refine ⟨rfl, rfl, rfl, rfl, rfl, rfl, rfl, rfl, rfl, rfl, rfl, rfl, rfl, rfl, rfl, rfl, rfl, rfl, rfl⟩

/-- `lose` on `k2` changes that register alone. -/
@[simp] theorem State.lose_k2_fields (s : State) :
      (s.lose .k2).key = s.key ∧
      (s.lose .k2).cv = s.cv ∧
      (s.lose .k2).k1 = s.k1 ∧
      (s.lose .k2).k2 = none ∧
      (s.lose .k2).keyValid = s.keyValid ∧
      (s.lose .k2).subkeysValid = s.subkeysValid ∧
      (s.lose .k2).w = s.w ∧
      (s.lose .k2).crcReg = s.crcReg ∧
      (s.lose .k2).seq = s.seq ∧
      (s.lose .k2).operandA = s.operandA ∧
      (s.lose .k2).operandB = s.operandB ∧
      (s.lose .k2).outstanding = s.outstanding ∧
      (s.lose .k2).pendingResponse = s.pendingResponse ∧
      (s.lose .k2).cmdIn = s.cmdIn ∧
      (s.lose .k2).resetIn = s.resetIn ∧
      (s.lose .k2).draws = s.draws ∧
      (s.lose .k2).drawIndex = s.drawIndex ∧
      (s.lose .k2).cipherPort = s.cipherPort ∧
      (s.lose .k2).history = s.history := by
  refine ⟨rfl, rfl, rfl, rfl, rfl, rfl, rfl, rfl, rfl, rfl, rfl, rfl, rfl, rfl, rfl, rfl, rfl, rfl, rfl⟩

/-- `lose` on `w` changes that register alone. -/
@[simp] theorem State.lose_w_fields (s : State) :
      (s.lose .w).key = s.key ∧
      (s.lose .w).cv = s.cv ∧
      (s.lose .w).k1 = s.k1 ∧
      (s.lose .w).k2 = s.k2 ∧
      (s.lose .w).keyValid = s.keyValid ∧
      (s.lose .w).subkeysValid = s.subkeysValid ∧
      (s.lose .w).w = none ∧
      (s.lose .w).crcReg = s.crcReg ∧
      (s.lose .w).seq = s.seq ∧
      (s.lose .w).operandA = s.operandA ∧
      (s.lose .w).operandB = s.operandB ∧
      (s.lose .w).outstanding = s.outstanding ∧
      (s.lose .w).pendingResponse = s.pendingResponse ∧
      (s.lose .w).cmdIn = s.cmdIn ∧
      (s.lose .w).resetIn = s.resetIn ∧
      (s.lose .w).draws = s.draws ∧
      (s.lose .w).drawIndex = s.drawIndex ∧
      (s.lose .w).cipherPort = s.cipherPort ∧
      (s.lose .w).history = s.history := by
  refine ⟨rfl, rfl, rfl, rfl, rfl, rfl, rfl, rfl, rfl, rfl, rfl, rfl, rfl, rfl, rfl, rfl, rfl, rfl, rfl⟩

/-- Entering `EXECUTE` changes the sequencer and the operand store alone. -/
@[simp] theorem State.begin_fields (a b : List Byte) (s : State) :
      (s.begin a b).key = s.key ∧
      (s.begin a b).cv = s.cv ∧
      (s.begin a b).k1 = s.k1 ∧
      (s.begin a b).k2 = s.k2 ∧
      (s.begin a b).keyValid = s.keyValid ∧
      (s.begin a b).subkeysValid = s.subkeysValid ∧
      (s.begin a b).w = s.w ∧
      (s.begin a b).crcReg = s.crcReg ∧
      (s.begin a b).seq = .execute ∧
      (s.begin a b).operandA = a ∧
      (s.begin a b).operandB = b ∧
      (s.begin a b).outstanding = s.outstanding ∧
      (s.begin a b).pendingResponse = s.pendingResponse ∧
      (s.begin a b).cmdIn = s.cmdIn ∧
      (s.begin a b).resetIn = s.resetIn ∧
      (s.begin a b).draws = s.draws ∧
      (s.begin a b).drawIndex = s.drawIndex ∧
      (s.begin a b).cipherPort = s.cipherPort ∧
      (s.begin a b).history = s.history := by
  refine ⟨rfl, rfl, rfl, rfl, rfl, rfl, rfl, rfl, rfl, rfl, rfl, rfl, rfl, rfl, rfl, rfl, rfl, rfl, rfl⟩

/-- Settling clears the hidden state alone. -/
@[simp] theorem State.settled_fields (s : State) :
      (s.settled).key = s.key ∧
      (s.settled).cv = s.cv ∧
      (s.settled).k1 = s.k1 ∧
      (s.settled).k2 = s.k2 ∧
      (s.settled).keyValid = s.keyValid ∧
      (s.settled).subkeysValid = s.subkeysValid ∧
      (s.settled).w = none ∧
      (s.settled).crcReg = none ∧
      (s.settled).seq = .idle ∧
      (s.settled).operandA = [] ∧
      (s.settled).operandB = [] ∧
      (s.settled).outstanding = none ∧
      (s.settled).pendingResponse = none ∧
      (s.settled).cmdIn = s.cmdIn ∧
      (s.settled).resetIn = s.resetIn ∧
      (s.settled).draws = s.draws ∧
      (s.settled).drawIndex = s.drawIndex ∧
      (s.settled).cipherPort = s.cipherPort ∧
      (s.settled).history = s.history := by
  refine ⟨rfl, rfl, rfl, rfl, rfl, rfl, rfl, rfl, rfl, rfl, rfl, rfl, rfl, rfl, rfl, rfl, rfl, rfl, rfl⟩

/-- Entering `RESPOND` changes the sequencer and the pending response alone. -/
@[simp] theorem State.prepareResponse_fields (r : Response) (s : State) :
      (s.prepareResponse r).key = s.key ∧
      (s.prepareResponse r).cv = s.cv ∧
      (s.prepareResponse r).k1 = s.k1 ∧
      (s.prepareResponse r).k2 = s.k2 ∧
      (s.prepareResponse r).keyValid = s.keyValid ∧
      (s.prepareResponse r).subkeysValid = s.subkeysValid ∧
      (s.prepareResponse r).w = s.w ∧
      (s.prepareResponse r).crcReg = s.crcReg ∧
      (s.prepareResponse r).seq = .respond ∧
      (s.prepareResponse r).operandA = s.operandA ∧
      (s.prepareResponse r).operandB = s.operandB ∧
      (s.prepareResponse r).outstanding = s.outstanding ∧
      (s.prepareResponse r).pendingResponse = some r ∧
      (s.prepareResponse r).cmdIn = s.cmdIn ∧
      (s.prepareResponse r).resetIn = s.resetIn ∧
      (s.prepareResponse r).draws = s.draws ∧
      (s.prepareResponse r).drawIndex = s.drawIndex ∧
      (s.prepareResponse r).cipherPort = s.cipherPort ∧
      (s.prepareResponse r).history = s.history := by
  refine ⟨rfl, rfl, rfl, rfl, rfl, rfl, rfl, rfl, rfl, rfl, rfl, rfl, rfl, rfl, rfl, rfl, rfl, rfl, rfl⟩

/-- Sending a request is observed and leaves it outstanding. -/
@[simp] theorem State.sendRequest_fields (r : CipherRequest) (s : State) :
      (s.sendRequest r).key = s.key ∧
      (s.sendRequest r).cv = s.cv ∧
      (s.sendRequest r).k1 = s.k1 ∧
      (s.sendRequest r).k2 = s.k2 ∧
      (s.sendRequest r).keyValid = s.keyValid ∧
      (s.sendRequest r).subkeysValid = s.subkeysValid ∧
      (s.sendRequest r).w = s.w ∧
      (s.sendRequest r).crcReg = s.crcReg ∧
      (s.sendRequest r).seq = s.seq ∧
      (s.sendRequest r).operandA = s.operandA ∧
      (s.sendRequest r).operandB = s.operandB ∧
      (s.sendRequest r).outstanding = some r ∧
      (s.sendRequest r).pendingResponse = s.pendingResponse ∧
      (s.sendRequest r).cmdIn = s.cmdIn ∧
      (s.sendRequest r).resetIn = s.resetIn ∧
      (s.sendRequest r).draws = s.draws ∧
      (s.sendRequest r).drawIndex = s.drawIndex ∧
      (s.sendRequest r).cipherPort = s.cipherPort ∧
      (s.sendRequest r).history = s.history ++ [.request r] := by
  refine ⟨rfl, rfl, rfl, rfl, rfl, rfl, rfl, rfl, rfl, rfl, rfl, rfl, rfl, rfl, rfl, rfl, rfl, rfl, rfl⟩

/-- Receiving an answer uses up one decision and is observed. -/
@[simp] theorem State.receiveAnswer_fields (a : CipherAnswer) (s : State) :
      (s.receiveAnswer a).key = s.key ∧
      (s.receiveAnswer a).cv = s.cv ∧
      (s.receiveAnswer a).k1 = s.k1 ∧
      (s.receiveAnswer a).k2 = s.k2 ∧
      (s.receiveAnswer a).keyValid = s.keyValid ∧
      (s.receiveAnswer a).subkeysValid = s.subkeysValid ∧
      (s.receiveAnswer a).w = s.w ∧
      (s.receiveAnswer a).crcReg = s.crcReg ∧
      (s.receiveAnswer a).seq = s.seq ∧
      (s.receiveAnswer a).operandA = s.operandA ∧
      (s.receiveAnswer a).operandB = s.operandB ∧
      (s.receiveAnswer a).outstanding = none ∧
      (s.receiveAnswer a).pendingResponse = s.pendingResponse ∧
      (s.receiveAnswer a).cmdIn = s.cmdIn ∧
      (s.receiveAnswer a).resetIn = s.resetIn ∧
      (s.receiveAnswer a).draws = s.draws.tail ∧
      (s.receiveAnswer a).drawIndex = s.drawIndex + 1 ∧
      (s.receiveAnswer a).cipherPort = s.cipherPort ∧
      (s.receiveAnswer a).history = s.history ++ [.answer a] := by
  refine ⟨rfl, rfl, rfl, rfl, rfl, rfl, rfl, rfl, rfl, rfl, rfl, rfl, rfl, rfl, rfl, rfl, rfl, rfl, rfl⟩

/-- The reset event leaves the environment's fields alone. -/
@[simp] theorem State.applyReset_fields (s : State) :
      (s.applyReset).key = none ∧
      (s.applyReset).cv = none ∧
      (s.applyReset).k1 = none ∧
      (s.applyReset).k2 = none ∧
      (s.applyReset).keyValid = false ∧
      (s.applyReset).subkeysValid = false ∧
      (s.applyReset).w = none ∧
      (s.applyReset).crcReg = none ∧
      (s.applyReset).seq = .idle ∧
      (s.applyReset).operandA = [] ∧
      (s.applyReset).operandB = [] ∧
      (s.applyReset).outstanding = none ∧
      (s.applyReset).pendingResponse = none ∧
      (s.applyReset).cmdIn = s.cmdIn ∧
      (s.applyReset).resetIn = .released ∧
      (s.applyReset).draws = s.draws ∧
      (s.applyReset).drawIndex = s.drawIndex ∧
      (s.applyReset).cipherPort = s.cipherPort ∧
      (s.applyReset).history = s.history ++ [.reset] := by
  refine ⟨rfl, rfl, rfl, rfl, rfl, rfl, rfl, rfl, rfl, rfl, rfl, rfl, rfl, rfl, rfl, rfl, rfl, rfl, rfl⟩

/-- Ending the session touches the session's registers and flags alone. -/
@[simp] theorem State.endSession_fields (s : State) :
      (s.endSession).key = none ∧
      (s.endSession).cv = none ∧
      (s.endSession).k1 = none ∧
      (s.endSession).k2 = none ∧
      (s.endSession).keyValid = false ∧
      (s.endSession).subkeysValid = false ∧
      (s.endSession).w = s.w ∧
      (s.endSession).crcReg = s.crcReg ∧
      (s.endSession).seq = s.seq ∧
      (s.endSession).operandA = s.operandA ∧
      (s.endSession).operandB = s.operandB ∧
      (s.endSession).outstanding = s.outstanding ∧
      (s.endSession).pendingResponse = s.pendingResponse ∧
      (s.endSession).cmdIn = s.cmdIn ∧
      (s.endSession).resetIn = s.resetIn ∧
      (s.endSession).draws = s.draws ∧
      (s.endSession).drawIndex = s.drawIndex ∧
      (s.endSession).cipherPort = s.cipherPort ∧
      (s.endSession).history = s.history := by
  refine ⟨rfl, rfl, rfl, rfl, rfl, rfl, rfl, rfl, rfl, rfl, rfl, rfl, rfl, rfl, rfl, rfl, rfl, rfl, rfl⟩

/-- A bit step changes `CRCREG` and the sequencer alone. -/
@[simp] theorem State.crcBit_fields (i j : Nat) (b : Bool) (s : State) :
      (s.crcBit i j b).key = s.key ∧
      (s.crcBit i j b).cv = s.cv ∧
      (s.crcBit i j b).k1 = s.k1 ∧
      (s.crcBit i j b).k2 = s.k2 ∧
      (s.crcBit i j b).keyValid = s.keyValid ∧
      (s.crcBit i j b).subkeysValid = s.subkeysValid ∧
      (s.crcBit i j b).w = s.w ∧
      (s.crcBit i j b).crcReg = some (crcStep s.readCrc b) ∧
      (s.crcBit i j b).seq = .executeCrc i j ∧
      (s.crcBit i j b).operandA = s.operandA ∧
      (s.crcBit i j b).operandB = s.operandB ∧
      (s.crcBit i j b).outstanding = s.outstanding ∧
      (s.crcBit i j b).pendingResponse = s.pendingResponse ∧
      (s.crcBit i j b).cmdIn = s.cmdIn ∧
      (s.crcBit i j b).resetIn = s.resetIn ∧
      (s.crcBit i j b).draws = s.draws ∧
      (s.crcBit i j b).drawIndex = s.drawIndex ∧
      (s.crcBit i j b).cipherPort = s.cipherPort ∧
      (s.crcBit i j b).history = s.history := by
  refine ⟨rfl, rfl, rfl, rfl, rfl, rfl, rfl, rfl, rfl, rfl, rfl, rfl, rfl, rfl, rfl, rfl, rfl, rfl, rfl⟩

/-- Taking a frame moves it off the command port and is observed. -/
@[simp] theorem State.takeFrame_fields (len : Nat) (s : State) :
      (s.takeFrame len).key = s.key ∧
      (s.takeFrame len).cv = s.cv ∧
      (s.takeFrame len).k1 = s.k1 ∧
      (s.takeFrame len).k2 = s.k2 ∧
      (s.takeFrame len).keyValid = s.keyValid ∧
      (s.takeFrame len).subkeysValid = s.subkeysValid ∧
      (s.takeFrame len).w = s.w ∧
      (s.takeFrame len).crcReg = s.crcReg ∧
      (s.takeFrame len).seq = .payload ∧
      (s.takeFrame len).operandA = s.operandA ∧
      (s.takeFrame len).operandB = s.operandB ∧
      (s.takeFrame len).outstanding = s.outstanding ∧
      (s.takeFrame len).pendingResponse = s.pendingResponse ∧
      (s.takeFrame len).cmdIn = (s.cmdIn.drop 9).drop (len - 9) ∧
      (s.takeFrame len).resetIn = s.resetIn ∧
      (s.takeFrame len).draws = s.draws ∧
      (s.takeFrame len).drawIndex = s.drawIndex ∧
      (s.takeFrame len).cipherPort = s.cipherPort ∧
      (s.takeFrame len).history = s.history ++ [.command (s.cmdIn.take len)] := by
  refine ⟨rfl, rfl, rfl, rfl, rfl, rfl, rfl, rfl, rfl, rfl, rfl, rfl, rfl, rfl, rfl, rfl, rfl, rfl, rfl⟩

/-- The host's offer touches the command port alone. -/
@[simp] theorem State.offer_fields (bytes : List Byte) (s : State) :
      (s.offer bytes).key = s.key ∧
      (s.offer bytes).cv = s.cv ∧
      (s.offer bytes).k1 = s.k1 ∧
      (s.offer bytes).k2 = s.k2 ∧
      (s.offer bytes).keyValid = s.keyValid ∧
      (s.offer bytes).subkeysValid = s.subkeysValid ∧
      (s.offer bytes).w = s.w ∧
      (s.offer bytes).crcReg = s.crcReg ∧
      (s.offer bytes).seq = s.seq ∧
      (s.offer bytes).operandA = s.operandA ∧
      (s.offer bytes).operandB = s.operandB ∧
      (s.offer bytes).outstanding = s.outstanding ∧
      (s.offer bytes).pendingResponse = s.pendingResponse ∧
      (s.offer bytes).cmdIn = s.cmdIn ++ bytes ∧
      (s.offer bytes).resetIn = s.resetIn ∧
      (s.offer bytes).draws = s.draws ∧
      (s.offer bytes).drawIndex = s.drawIndex ∧
      (s.offer bytes).cipherPort = s.cipherPort ∧
      (s.offer bytes).history = s.history := by
  refine ⟨rfl, rfl, rfl, rfl, rfl, rfl, rfl, rfl, rfl, rfl, rfl, rfl, rfl, rfl, rfl, rfl, rfl, rfl, rfl⟩

/-- Pulling reset touches the reset input alone. -/
@[simp] theorem State.pullReset_fields (r : ResetInput) (s : State) :
      (s.pullReset r).key = s.key ∧
      (s.pullReset r).cv = s.cv ∧
      (s.pullReset r).k1 = s.k1 ∧
      (s.pullReset r).k2 = s.k2 ∧
      (s.pullReset r).keyValid = s.keyValid ∧
      (s.pullReset r).subkeysValid = s.subkeysValid ∧
      (s.pullReset r).w = s.w ∧
      (s.pullReset r).crcReg = s.crcReg ∧
      (s.pullReset r).seq = s.seq ∧
      (s.pullReset r).operandA = s.operandA ∧
      (s.pullReset r).operandB = s.operandB ∧
      (s.pullReset r).outstanding = s.outstanding ∧
      (s.pullReset r).pendingResponse = s.pendingResponse ∧
      (s.pullReset r).cmdIn = s.cmdIn ∧
      (s.pullReset r).resetIn = r ∧
      (s.pullReset r).draws = s.draws ∧
      (s.pullReset r).drawIndex = s.drawIndex ∧
      (s.pullReset r).cipherPort = s.cipherPort ∧
      (s.pullReset r).history = s.history := by
  refine ⟨rfl, rfl, rfl, rfl, rfl, rfl, rfl, rfl, rfl, rfl, rfl, rfl, rfl, rfl, rfl, rfl, rfl, rfl, rfl⟩

end Sys2Proof.Machine
end

