-- ==== Sys2Proof/Laws/Ops.lean ====
section
/-! SUPPORT. One lemma per shared operation of Machine/Ops.lean, saying once everything it can do. -/

namespace Sys2Proof.Machine

/-- `respond`: the settled state, and the response observed. -/
theorem State.respond_eq (result : List Byte) (s : State) :
    s.respond result = { s.settled with
      history := s.settled.history ++ [.response (statusOk :: BitVec.ofNat 8 result.length :: result)] } := rfl

/-- `raise`: the settled state, its session over where the error is fatal, and the response observed. -/
theorem State.raise_eq (e : CmdError) (s : State) :
    s.raise e = { (if e.fatal then s.settled.endSession else s.settled) with
      history := s.settled.history ++ [.response (e.status :: BitVec.ofNat 8 e.info.length :: e.info)] } := by
  cases e <;> rfl

/-- Settling forgets the operand store and the phase. -/
@[simp] theorem State.settled_begin (a b : List Byte) (s : State) : (s.begin a b).settled = s.settled := rfl

/-- Settling forgets `W`. -/
@[simp] theorem State.settled_write_w (v : Block) (s : State) : (s.write .w v).settled = s.settled := rfl

/-- Settling twice is settling once. -/
@[simp] theorem State.settled_settled (s : State) : s.settled.settled = s.settled := rfl

/-- A settled state is what claims call quiet. -/
theorem State.settled_quiet (s : State) : s.settled.Quiet := ⟨rfl, rfl, rfl, rfl, rfl, rfl, rfl⟩

/-- A quiet state is its own settled state. -/
theorem State.settled_of_quiet {s : State} (h : s.Quiet) : s.settled = s := by
  obtain ⟨h1, h2, h3, h4, h5, h6, h7⟩ := h
  cases s
  simp_all [State.settled]

/-- A quiet state is ready for a frame. -/
theorem State.ready_of_quiet {s : State} (h : s.Quiet) : s.ready = true := by
  simp [State.ready, h.idle, h.noRequest, h.noResponse]

/-- A register reads as what was written to it. -/
@[simp] theorem State.read_write_same (r : Reg) (v : Block) (s : State) : (s.write r v).read r = v := by
  cases r <;> rfl

/-- A register reads as before where another was written. -/
theorem State.read_write_other {r r' : Reg} (h : r' ≠ r) (v : Block) (s : State) :
    (s.write r v).read r' = s.read r' := by
  cases r <;> cases r' <;> first | rfl | exact absurd rfl h

/-- Entering `EXECUTE` changes no register. -/
@[simp] theorem State.read_begin (r : Reg) (a b : List Byte) (s : State) : (s.begin a b).read r = s.read r := by
  cases r <;> rfl

/-- The next decision is decision 0. -/
theorem State.nextDraw_eq_drawAt (s : State) : s.nextDraw = s.drawAt 0 := by
  cases h : s.draws <;> simp [State.nextDraw, State.drawAt, h]

/-- After an answer, decision `k` is what decision `k + 1` was. -/
theorem State.drawAt_receiveAnswer (a : CipherAnswer) (s : State) (k : Nat) :
    (s.receiveAnswer a).drawAt k = s.drawAt (k + 1) := by
  cases h : s.draws <;> simp [State.drawAt, h, Nat.add_assoc, Nat.add_comm 1 k]

/-- `drawAt` looks at the environment's fields alone. -/
theorem State.drawAt_congr {s t : State} (h1 : s.draws = t.draws) (h2 : s.drawIndex = t.drawIndex)
    (h3 : s.cipherPort = t.cipherPort) (k : Nat) : s.drawAt k = t.drawAt k := by
  simp [State.drawAt, h1, h2, h3]

/-- A cipher call the collaborator answers. -/
theorem State.cipherCall_succeeds (enc : Cipher) (key iv p : Block) (s : State) (h : s.nextDraw = .succeeds) :
    s.cipherCall enc key iv p =
      (.ok (enc key iv p), (s.sendRequest ⟨key, iv, p⟩).receiveAnswer (.ok (enc key iv p))) := by
  simp [State.cipherCall, h, answerFor]

/-- A cipher call the collaborator fails. -/
theorem State.cipherCall_fails (enc : Cipher) (key iv p : Block) (s : State) (e : Byte)
    (h : s.nextDraw = .fails e) :
    s.cipherCall enc key iv p = (.fail e, (s.sendRequest ⟨key, iv, p⟩).receiveAnswer (.fail e)) := by
  simp [State.cipherCall, h, answerFor]

end Sys2Proof.Machine
end

