-- ==== Sys2Proof/Laws/Crc.lean ====
section
/-! SUPPORT. Everything the byte-iterations of `CRC32` can do: the hidden register takes the value of the same iterations
on a plain register value, and nothing but it and the sequencer changes. -/

namespace Sys2Proof.Machine

/-- Settling forgets a bit step. -/
@[simp] theorem State.settled_crcBit (i j : Nat) (b : Bool) (s : State) : (s.crcBit i j b).settled = s.settled := rfl

/-- A bit step reads as the step of the register value. -/
@[simp] theorem State.readCrc_crcBit (i j : Nat) (b : Bool) (s : State) :
    (s.crcBit i j b).readCrc = crcStep s.readCrc b := rfl

/-- A byte-iteration reads as the iteration of the register value. -/
theorem State.readCrc_crcByte (i : Nat) (byte : Option Byte) (s : State) :
    (s.crcByte i byte).readCrc = crcByteValue s.readCrc byte := by
  simp [State.crcByte, crcByteValue]

/-- Settling forgets a byte-iteration. -/
theorem State.settled_crcByte (i : Nat) (byte : Option Byte) (s : State) :
    (s.crcByte i byte).settled = s.settled := by
  simp [State.crcByte]

/-- The byte-iterations on the state are those on the register value, and leave everything else alone. -/
theorem crcPass_spec (bytes : List (Option Byte)) :
    ∀ (i : Nat) (s : State), (crcPass i bytes s).readCrc = crcFrom s.readCrc bytes ∧
      (crcPass i bytes s).settled = s.settled := by
  induction bytes with
  | nil => intro i s; exact ⟨rfl, rfl⟩
  | cons byte rest ih =>
    intro i s
    obtain ⟨h1, h2⟩ := ih (i + 1) (s.crcByte i byte)
    rw [State.readCrc_crcByte] at h1
    rw [State.settled_crcByte] at h2
    exact ⟨h1, h2⟩

end Sys2Proof.Machine
end

