-- ==== Sys2Proof/Laws/Decode.lean ====
section
/-! SUPPORT. The small lemmas of decoding and encoding: length fields, headers, lengths of frames. -/

namespace Sys2Proof

/-- A length field never exceeds `MAXLEN`. -/
theorem be32_le_maxLen (b0 b1 b2 b3 : Byte) : be32 b0 b1 b2 b3 ≤ Config.maxLen := by
  have h0 := b0.isLt
  have h1 := b1.isLt
  have h2 := b2.isLt
  have h3 := b3.isLt
  simp only [be32, Config.maxLen]
  omega

/-- The four length bytes read back as the length, modulo `2^32`. -/
theorem be32_of_length (n : Nat) :
    be32 (BitVec.ofNat 8 (n / 2 ^ 24)) (BitVec.ofNat 8 (n / 2 ^ 16)) (BitVec.ofNat 8 (n / 2 ^ 8))
      (BitVec.ofNat 8 n) = n % 2 ^ 32 := by
  simp only [be32, BitVec.toNat_ofNat]
  omega

/-- The header of an encoded command, read back. -/
theorem parseHeader_encode (i : Instr) (rest : List Byte) :
    parseHeader (encode i ++ rest) =
      some (⟨i.op.code, i.operandA.length % 2 ^ 32, i.operandB.length % 2 ^ 32⟩,
        i.operandA ++ (i.operandB ++ rest)) := by
  simp only [encode, encodeHeader, lengthBytes, List.cons_append, List.nil_append, List.append_assoc, parseHeader,
    be32_of_length]

/-- A header is nine bytes. -/
@[simp] theorem length_encodeHeader (i : Instr) : (encodeHeader i).length = 9 := rfl

/-- Decoding by the header, where nine bytes are there. -/
theorem decode_of_parseHeader {bytes body : List Byte} {h : Header} (hp : parseHeader bytes = some (h, body)) :
    decode bytes = decodeBody h body := by
  rw [decode, hp]

end Sys2Proof
end

