-- ==== Sys2Proof/Laws/Fetch.lean ====
section
/-! SUPPORT. Everything fetching can do: what taking a frame leaves, and what an idle block with bytes offered does. -/

namespace Sys2Proof.Machine

/-- A command's frame is at least its header. -/
theorem nine_le_of_decode_instr {bytes : List Byte} {i : Instr} {len : Nat} (h : decode bytes = .instr i len) :
    9 ≤ len := by
  unfold decode at h
  split at h
  · cases h
  · unfold decodeBody at h
    split at h
    · cases h
    · split at h <;> cases h
      omega

/-- So is an illegal frame. -/
theorem nine_le_of_decode_illegal {bytes : List Byte} {why : Illegal} {len : Nat}
    (h : decode bytes = .illegal why len) : 9 ≤ len := by
  unfold decode at h
  split at h
  · cases h
  · unfold decodeBody at h
    split at h
    · cases h
    · split at h <;> cases h
      omega

/-- Taking a frame: its bytes leave the command port together and it is observed. -/
theorem State.takeFrame_eq (s : State) (len : Nat) (h : 9 ≤ len) : s.takeFrame len = { s with
    seq := .payload
    cmdIn := s.cmdIn.drop len
    history := s.history ++ [.command (s.cmdIn.take len)] } := by
  simp only [State.takeFrame, State.takePayload, State.takeHeader, List.drop_drop]
  rw [show 9 + (len - 9) = len by omega]

/-- Without a reset before the command, the frame decides. -/
theorem fetch_of_no_reset {s : State} (h : ∀ taken, s.resetIn ≠ .beforeCommand taken) : fetch s = fetchFrame s := by
  unfold fetch
  split
  · rename_i h'
    exact absurd h' (h _)
  · rfl
  · rfl

/-- An idle block with bytes offered does what they decode to. -/
theorem fetchFrame_of_ready {s : State} (h2 : s.ready = true) (h3 : s.cmdIn ≠ []) :
    fetchFrame s =
      match decode s.cmdIn with
      | .instr i len => .run i (s.takeFrame len)
      | .illegal _ len => .illegal (s.takeFrame len)
      | .incomplete _ => .stopped .stuckInsideFrame := by
  obtain ⟨x, xs, hx⟩ := List.exists_cons_of_ne_nil h3
  unfold fetchFrame
  rw [h2]
  simp only [if_false, reduceCtorEq]
  rw [hx] <;> rfl

/-- Without a reset inside it, a command leads where it leads. -/
theorem State.underReset_of_no_reset {s : State} (h : ∀ n, s.resetIn ≠ .duringCommand n)
    (o : Host.Outcome State Fault Refusal) : s.underReset o = o := by
  unfold State.underReset
  cases hr : s.resetIn with
  | duringCommand n => exact absurd hr (h n)
  | beforeCommand taken => rfl
  | released => rfl

end Sys2Proof.Machine
end

