-- ==== Sys2Proof/Laws/History.lean ====
section
/-! SUPPORT. How the reads of an event history pass over concatenation and over the exchanges of a chaining pass. -/

namespace Sys2Proof.Machine

/-- The requests of two histories in a row. -/
@[simp] theorem requests_append (a b : List Event) : requests (a ++ b) = requests a ++ requests b := by
  induction a with
  | nil => rfl
  | cons e es ih => cases e <;> simp [requests, ih]

/-- The responses of two histories in a row. -/
@[simp] theorem responses_append (a b : List Event) : responses (a ++ b) = responses a ++ responses b := by
  induction a with
  | nil => rfl
  | cons e es ih => cases e <;> simp [responses, ih]

/-- The exchanges of a pass hold no response. -/
@[simp] theorem responses_exchanges (enc : Cipher) (key : Block) (bs : List Block) :
    ∀ w, responses (exchanges enc key w bs) = [] := by
  induction bs with
  | nil => intro w; rfl
  | cons b bs ih => intro w; simp [exchanges, responses, ih]

/-- An observer sees two histories in a row as the second from where the first left it. -/
theorem Observer.seeAll_append (o : Observer) (a b : List Event) :
    Observer.seeAll o (a ++ b) = (Observer.seeAll o a).bind fun o => Observer.seeAll o b := by
  induction a generalizing o with
  | nil => rfl
  | cons e es ih =>
    simp only [List.cons_append, Observer.seeAll]
    cases o.see e <;> simp [ih]

/-- The exchanges of a pass bring an observer of a running command back to where it was. -/
theorem Observer.seeAll_exchanges (enc : Cipher) (key : Block) (bs : List Block) :
    ∀ w, Observer.seeAll .running (exchanges enc key w bs) = some .running := by
  induction bs with
  | nil => intro w; rfl
  | cons b bs ih => intro w; exact ih _

/-- The draws after `n` of them are used up. -/
theorem State.drawAt_drop {s t : State} (n : Nat) (h1 : t.draws = s.draws.drop n)
    (h2 : t.drawIndex = s.drawIndex + n) (h3 : t.cipherPort = s.cipherPort) (k : Nat) :
    t.drawAt k = s.drawAt (n + k) := by
  simp [State.drawAt, h1, h2, h3, Nat.add_assoc]

/-- Commands one after the other. -/
theorem runCommands_cons {i : Instr} {is : List Instr} {s t : State} {o : Host.Outcome State Fault Refusal}
    (h : exec i s = .next t) (h2 : runCommands is t = o) : runCommands (i :: is) s = o := by
  simp only [runCommands, h, h2]

end Sys2Proof.Machine
end

