-- ==== Sys2Proof/Laws/Operands.lean ====
section
/-! SUPPORT. The bits of a 16-byte value's bytes, and the bits a list of bytes is put together from. -/

namespace Sys2Proof.Machine

/-- Bit `j` of byte `i` is a bit of the whole value. -/
theorem Block.getLsbD_byte (v : Block) (i j : Nat) :
    (Block.byte v i).getLsbD j = (decide (j < 8) && v.getLsbD (8 * (15 - i) + j)) := by
  simp [Block.byte]

/-- A value has sixteen bytes. -/
@[simp] theorem Block.length_toBytes (v : Block) : (Block.toBytes v).length = 16 := by simp [Block.toBytes]

/-- A tag has eight bytes. -/
@[simp] theorem Block.length_first8 (v : Block) : (Block.first8 v).length = 8 := by simp [Block.first8]

/-- One byte more shifts the value by a byte. -/
theorem Block.ofBytes_concat (bytes : List Byte) (b : Byte) :
    Block.ofBytes (bytes ++ [b]) = (Block.ofBytes bytes <<< 8) ||| b.setWidth 128 := by
  simp [Block.ofBytes]

/-- Bit `8 k + j` of the value comes from bit `j` of the `k`-th byte counted from the last. -/
theorem Block.getLsbD_ofBytes (bytes : List Byte) : ∀ k j, j < 8 → 8 * k + j < 128 →
    (Block.ofBytes bytes).getLsbD (8 * k + j) = (bytes.reverse.getD k 0#8).getLsbD j := by
  induction bytes using List.reverseRecOn with
  | nil => intro k j _ _; simp [Block.ofBytes]
  | append_singleton bytes b ih =>
    intro k j hj hk
    rw [Block.ofBytes_concat]
    simp only [BitVec.getLsbD_or, BitVec.getLsbD_shiftLeft, BitVec.getLsbD_setWidth, hk]
    cases k with
    | zero => simp [hj]
    | succ k =>
      rw [show 8 * (k + 1) + j - 8 = 8 * k + j by omega, ih k j hj (by omega)]
      have h1 : ¬ (8 * (k + 1) + j < 8) := by omega
      have h2 : b.getLsbD (8 * (k + 1) + j) = false := BitVec.getLsbD_of_ge _ _ (by omega)
      simp [h1, h2]

end Sys2Proof.Machine
end

