-- ==== Sys2Proof/Laws/PerInstr.lean ====
section
/-! SUPPORT. Statements made per instruction, about its syntax and encoding: the length of its frame (30_encoding.md R95) and
the row of the opcode map its header matches (R92). -/

namespace Sys2Proof.Laws

/-- The frame is `9 + ALEN + BLEN` bytes (30_encoding.md R95). -/
def EncodedLength.Statement (i : Instr) : Prop :=
  (encode i).length = 9 + i.operandA.length + i.operandB.length

theorem EncodedLength.init (key cv : List Byte) : EncodedLength.Statement (.init key cv) := by
  simp [EncodedLength.Statement, encode, Nat.add_assoc]

theorem EncodedLength.derive : EncodedLength.Statement .derive := by
  simp [EncodedLength.Statement, encode, Instr.operandA, Instr.operandB]

theorem EncodedLength.tag (message : List Byte) : EncodedLength.Statement (.tag message) := by
  simp [EncodedLength.Statement, encode, Nat.add_assoc]

theorem EncodedLength.setcv (value : List Byte) : EncodedLength.Statement (.setcv value) := by
  simp [EncodedLength.Statement, encode, Nat.add_assoc]

theorem EncodedLength.crc32 (data : List Byte) : EncodedLength.Statement (.crc32 data) := by
  simp [EncodedLength.Statement, encode, Nat.add_assoc]

/-- The header of a well-formed command decodes to that command and to no other (30_encoding.md R92, R93). -/
def HeaderDecodes.Statement (i : Instr) : Prop :=
  decodeHeader ⟨i.op.code, i.operandA.length, i.operandB.length⟩ = .legal i.op

theorem HeaderDecodes.init (key cv : List Byte) : HeaderDecodes.Statement (.init key cv) := rfl

theorem HeaderDecodes.derive : HeaderDecodes.Statement .derive := rfl

theorem HeaderDecodes.tag (message : List Byte) : HeaderDecodes.Statement (.tag message) := rfl

theorem HeaderDecodes.setcv (value : List Byte) : HeaderDecodes.Statement (.setcv value) := rfl

theorem HeaderDecodes.crc32 (data : List Byte) : HeaderDecodes.Statement (.crc32 data) := rfl

end Sys2Proof.Laws
end

