-- ==== Sys2Proof/Laws/Step.lean ====
section
/-! SUPPORT. Everything a step can do, and what abandoning a command leaves. -/

namespace Sys2Proof.Machine

/-- A step is a reset before the command; or, without one, a stop, a wait, an illegal frame, or a command under the reset
input. -/
theorem step_cases (s : State) :
    (∃ taken, s.resetIn = .beforeCommand taken ∧ step s = .next (s.resetInFrame taken)) ∨
    ((∀ taken, s.resetIn ≠ .beforeCommand taken) ∧
      ((s.ready = false ∧ step s = .fault .notIdle) ∨
        (s.ready = true ∧ s.cmdIn = [] ∧ step s = .next s) ∨
        (s.ready = true ∧ s.cmdIn ≠ [] ∧ (∃ why, decode s.cmdIn = .incomplete why) ∧
          step s = .fault .stuckInsideFrame) ∨
        (s.ready = true ∧ s.cmdIn ≠ [] ∧ ∃ why len, decode s.cmdIn = .illegal why len ∧
          step s = (s.takeFrame len).underReset (.next ((s.takeFrame len).raise .illegalCommand))) ∨
        (s.ready = true ∧ s.cmdIn ≠ [] ∧ ∃ i len, decode s.cmdIn = .instr i len ∧
          step s = (s.takeFrame len).underReset (exec i (s.takeFrame len))))) := by
  by_cases hb : ∃ taken, s.resetIn = .beforeCommand taken
  · obtain ⟨taken, hk⟩ := hb
    exact .inl ⟨taken, hk, by unfold step fetch; rw [hk]⟩
  · have hb' : ∀ taken, s.resetIn ≠ .beforeCommand taken := fun k hk => hb ⟨k, hk⟩
    refine .inr ⟨hb', ?_⟩
    unfold step
    rw [fetch_of_no_reset hb']
    cases h2 : s.ready with
    | false => left; simp [fetchFrame, h2]
    | true =>
      by_cases h3 : s.cmdIn = []
      · right; left; simp [fetchFrame, h2, h3]
      · rw [fetchFrame_of_ready h2 h3]
        cases hd : decode s.cmdIn with
        | instr i len => right; right; right; right; exact ⟨rfl, h3, i, len, rfl, rfl⟩
        | illegal why len => right; right; right; left; exact ⟨rfl, h3, why, len, rfl, rfl⟩
        | incomplete why => right; right; left; exact ⟨rfl, h3, ⟨why, rfl⟩, rfl⟩

/-- What abandoning observes: the first `n` of the command's events before its response, then the reset. -/
theorem State.abandon_history (n : Nat) {s t : State} {events : List Event} {r : List Byte}
    (h : t.history = s.history ++ events ++ [.response r]) :
    (s.abandon n t).history = s.history ++ events.take n ++ [.reset] := by
  have he : (t.history.drop s.history.length).dropLast = events := by
    rw [h, List.append_assoc, List.drop_left, List.dropLast_concat]
  simp [State.abandon, he]

end Sys2Proof.Machine
end

