-- ==== Sys2Proof/Laws/Tag.lean ====
section
/-! SUPPORT. Everything the chaining pass of `TAG` can do: all requests succeed, or one is the first to fail. -/

namespace Sys2Proof.Machine

/-- Among the next `n` decisions either all succeed or one is the first to fail. -/
theorem State.draws_succeed_or_first_failure (s : State) (n : Nat) :
    (∀ j < n, s.drawAt j = .succeeds) ∨
      ∃ j e, j < n ∧ (∀ i < j, s.drawAt i = .succeeds) ∧ s.drawAt j = .fails e := by
  induction n with
  | zero => exact .inl fun j hj => absurd hj (Nat.not_lt_zero j)
  | succ n ih =>
    rcases ih with h | ⟨j, e, hj, hi, he⟩
    · cases hd : s.drawAt n with
      | succeeds =>
        refine .inl fun j hj => ?_
        rcases Nat.lt_succ_iff_lt_or_eq.mp hj with h' | rfl
        · exact h j h'
        · exact hd
      | fails e => exact .inr ⟨n, e, Nat.lt_succ_self n, h, hd⟩
    · exact .inr ⟨j, e, Nat.lt_succ_of_lt hj, hi, he⟩

/-- The state the pass continues from after block `k`'s request has succeeded. -/
def afterBlock (enc : Cipher) (k : Nat) (b : Block) (s : State) : State :=
  let x := xor16 b (s.read .w)
  let c := enc (s.read .key) z16 x
  ((({ s with seq := .executeTag k }).sendRequest ⟨s.read .key, z16, x⟩).receiveAnswer (.ok c)).write .w c

/-- After a block, decision `i` is what decision `i + 1` was. -/
theorem drawAt_afterBlock (enc : Cipher) (k : Nat) (b : Block) (s : State) (i : Nat) :
    (afterBlock enc k b s).drawAt i = s.drawAt (i + 1) := by
  rw [← State.drawAt_receiveAnswer (.fail 0#8)]
  exact State.drawAt_congr rfl rfl rfl i

/-- The pass continues where the first request succeeds. -/
theorem tagPass_cons_succeeds (enc : Cipher) (k : Nat) (b : Block) (bs : List Block) (s : State)
    (h : s.drawAt 0 = .succeeds) :
    tagPass enc k (b :: bs) s = tagPass enc (k + 1) bs (afterBlock enc k b s) := by
  rw [tagPass, State.cipherCall_succeeds (h := by rw [State.nextDraw_eq_drawAt]; exact h)]
  rfl

/-- A pass whose requests all succeed ends with the chain value in `W`, and has made the exchanges of its blocks. -/
theorem tagPass_all_succeed (enc : Cipher) (bs : List Block) :
    ∀ (k : Nat) (s : State), (∀ j < bs.length, s.drawAt j = .succeeds) →
      (tagPass enc k bs s).1 = none ∧
      (tagPass enc k bs s).2.read .w = chain enc (s.read .key) (s.read .w) bs ∧
      (tagPass enc k bs s).2.settled = { s.settled with
        draws := s.draws.drop bs.length
        drawIndex := s.drawIndex + bs.length
        history := s.history ++ exchanges enc (s.read .key) (s.read .w) bs } := by
  induction bs with
  | nil => intro k s _; simp [tagPass, chain, exchanges, State.settled]
  | cons b bs ih =>
    intro k s h
    rw [tagPass_cons_succeeds enc k b bs s (h 0 (Nat.succ_pos _))]
    obtain ⟨h1, h2, h3⟩ := ih (k + 1) (afterBlock enc k b s) fun j hj => by
      rw [drawAt_afterBlock]
      exact h (j + 1) (Nat.succ_lt_succ hj)
    refine ⟨h1, h2, ?_⟩
    rw [h3]
    simp [afterBlock, State.settled, State.write, State.put, State.receiveAnswer, State.sendRequest, State.read,
      State.reg, exchanges, Nat.add_assoc, Nat.add_comm 1]

/-- A pass whose request `j` is the first to fail ends there with the collaborator's code, and has made the exchanges
before it and the failing one. -/
theorem tagPass_first_failure (enc : Cipher) (bs : List Block) :
    ∀ (k : Nat) (s : State) (j : Nat) (e : Byte) (hj : j < bs.length), (∀ i < j, s.drawAt i = .succeeds) →
      s.drawAt j = .fails e →
      (tagPass enc k bs s).1 = some e ∧
      (tagPass enc k bs s).2.settled = { s.settled with
        draws := s.draws.drop (j + 1)
        drawIndex := s.drawIndex + (j + 1)
        history := s.history ++ exchanges enc (s.read .key) (s.read .w) (bs.take j) ++
          [.request ⟨s.read .key, z16, xor16 bs[j] (chain enc (s.read .key) (s.read .w) (bs.take j))⟩,
            .answer (.fail e)] } := by
  induction bs with
  | nil => intro k s j e hj; exact absurd hj (Nat.not_lt_zero j)
  | cons b bs ih =>
    intro k s j e hj hi he
    cases j with
    | zero =>
      rw [tagPass, State.cipherCall_fails (e := e) (h := by rw [State.nextDraw_eq_drawAt]; exact he)]
      simp [State.settled, State.receiveAnswer, State.sendRequest, exchanges, chain]
    | succ j =>
      rw [tagPass_cons_succeeds enc k b bs s (hi 0 (Nat.succ_pos _))]
      obtain ⟨h1, h2⟩ := ih (k + 1) (afterBlock enc k b s) j e (Nat.lt_of_succ_lt_succ hj)
        (fun i hlt => by rw [drawAt_afterBlock]; exact hi (i + 1) (Nat.succ_lt_succ hlt))
        (by rw [drawAt_afterBlock]; exact he)
      refine ⟨h1, ?_⟩
      rw [h2]
      simp [afterBlock, State.settled, State.write, State.put, State.receiveAnswer, State.sendRequest, State.read,
        State.reg, exchanges, chain, Nat.add_assoc, Nat.add_comm 1]

/-- A message has as many blocks as the block count says. -/
@[simp] theorem length_messageBlocks (a : List Byte) (k1 k2 : Block) :
    (messageBlocks a k1 k2).length = numberOfBlocks a.length := by
  simp [messageBlocks]

end Sys2Proof.Machine
end

