-- ==== Sys2Proof/Tests/Slice0.lean ====
section
/-! SUPPORT. The model's own tests: ill-formed terms, words written out from the encoding tables, the spec's test vectors,
and for every obligation with hypotheses a concrete state and operands that meet them. -/

namespace Sys2Proof.Tests

open Sys2Proof Sys2Proof.Machine

/-! ## WellFormed: an operand of `2^32` bytes is refused, one of `2^32 - 1` is not (30_encoding.md R91) -/

/-- A list of `n` zero bytes fits where `n` does. -/
theorem lengthFits_zeros (n : Nat) : lengthFits (List.replicate n 0#8) = decide (n ≤ Config.maxLen) := by
  rw [lengthFits, List.length_replicate]

theorem test_illformed_init_key : (Instr.init (List.replicate (2 ^ 32) 0#8) []).wellFormed = false := by
  rw [Instr.wellFormed, lengthFits_zeros]; decide

theorem test_illformed_init_cv : (Instr.init [] (List.replicate (2 ^ 32) 0#8)).wellFormed = false := by
  rw [Instr.wellFormed, lengthFits_zeros]; decide

theorem test_illformed_tag : (Instr.tag (List.replicate (2 ^ 32) 0#8)).wellFormed = false := by
  rw [Instr.wellFormed, lengthFits_zeros]; decide

theorem test_illformed_setcv : (Instr.setcv (List.replicate (2 ^ 32) 0#8)).wellFormed = false := by
  rw [Instr.wellFormed, lengthFits_zeros]; decide

theorem test_illformed_crc32 : (Instr.crc32 (List.replicate (2 ^ 32) 0#8)).wellFormed = false := by
  rw [Instr.wellFormed, lengthFits_zeros]; decide

theorem test_wellformed_longest : (Instr.tag (List.replicate (2 ^ 32 - 1) 0#8)).wellFormed = true := by
  rw [Instr.wellFormed, lengthFits_zeros]; decide

/-! ## Decoding: rows F and G of 96_test_vectors_programs.md section 8 -/

/-- The key of S2 (95_test_vectors.md). -/
def keyS2 : List Byte :=
  [0x32, 0x01, 0x9B, 0xE4, 0xBC, 0x09, 0xA5, 0x20, 0x7A, 0xC7, 0xC6, 0x38, 0x65, 0xC2, 0x02, 0xA4]

/-- The key of row DV4 (95_test_vectors.md section 3). -/
def keyDV4 : List Byte :=
  [0x01, 0x23, 0x45, 0x67, 0x89, 0xAB, 0xCD, 0xEF, 0xFE, 0xDC, 0xBA, 0x98, 0x76, 0x54, 0x32, 0x10]

/-- Sixteen zero bytes. -/
def zeros16 : List Byte := List.replicate 16 0

/-- The bytes from `a`, `n` of them, counting upwards. -/
def counting (a n : Nat) : List Byte := (List.range n).map fun i => BitVec.ofNat 8 (a + i)

/-- Row F1. -/
theorem test_decode_init : decode ([0x01, 0, 0, 0, 0x10, 0, 0, 0, 0x10] ++ keyS2 ++ zeros16) =
    .instr (.init keyS2 zeros16) 41 := by decide

/-- Row F2. -/
theorem test_decode_derive : decode [0x02, 0, 0, 0, 0, 0, 0, 0, 0] = .instr .derive 9 := by decide

/-- Rows F3 and F4. -/
theorem test_decode_tag : decode [0x03, 0, 0, 0, 0x02, 0, 0, 0, 0, 0x6C, 0x00] = .instr (.tag [0x6C, 0x00]) 11 ∧
    decode [0x03, 0, 0, 0, 0, 0, 0, 0, 0] = .instr (.tag []) 9 := by decide

/-- Rows F6 and F10: a wrong length is a legal frame. -/
theorem test_decode_setcv : decode ([0x04, 0, 0, 0, 0x10, 0, 0, 0, 0] ++ zeros16) = .instr (.setcv zeros16) 25 ∧
    decode [0x04, 0, 0, 0, 0x03, 0, 0, 0, 0, 0, 0, 0] = .instr (.setcv [0, 0, 0]) 12 := by decide

/-- Row F7. -/
theorem test_decode_crc32 : decode
    [0x05, 0, 0, 0, 0x09, 0, 0, 0, 0, 0x31, 0x32, 0x33, 0x34, 0x35, 0x36, 0x37, 0x38, 0x39] =
    .instr (.crc32 [0x31, 0x32, 0x33, 0x34, 0x35, 0x36, 0x37, 0x38, 0x39]) 18 := by decide

/-- Row F9, and the length fields of the paragraph under the F rows. -/
theorem test_decode_lengths : decode ([0x01, 0, 0, 0, 0x0F, 0, 0, 0, 0x10] ++ keyDV4.take 15 ++ zeros16) =
    .instr (.init (keyDV4.take 15) zeros16) 40 ∧
    lengthBytes 300 = [0x00, 0x00, 0x01, 0x2C] ∧ lengthBytes 65536 = [0x00, 0x01, 0x00, 0x00] := by decide

/-- Rows G1, G2, G3: reserved opcodes. -/
theorem test_reserved_opcodes : decodeHeader ⟨0x00, 0, 0⟩ = .illegal .reservedOpcode ∧
    decodeHeader ⟨0x06, 0, 0⟩ = .illegal .reservedOpcode ∧
    decodeHeader ⟨0xFF, 0x10, 0x10⟩ = .illegal .reservedOpcode := by decide

/-- Rows G5, G6, G8, G12, G14: an operand the command does not take. -/
theorem test_operands_not_taken : decodeHeader ⟨0x02, 1, 0⟩ = .illegal .operandNotTaken ∧
    decodeHeader ⟨0x02, 0, 0x10⟩ = .illegal .operandNotTaken ∧
    decodeHeader ⟨0x03, 2, 1⟩ = .illegal .operandNotTaken ∧
    decodeHeader ⟨0x04, 0x10, 0x10⟩ = .illegal .operandNotTaken ∧
    decodeHeader ⟨0x05, 9, 4⟩ = .illegal .operandNotTaken := by decide

/-- Rows G4, G9, G11, G13, G15, G16: legal headers. -/
theorem test_legal_headers : decodeHeader ⟨0x02, 0, 0⟩ = .legal .derive ∧ decodeHeader ⟨0x03, 0, 0⟩ = .legal .tag ∧
    decodeHeader ⟨0x04, 0x11, 0⟩ = .legal .setcv ∧ decodeHeader ⟨0x05, 0, 0⟩ = .legal .crc32 ∧
    decodeHeader ⟨0x01, 0, 0⟩ = .legal .init ∧ decodeHeader ⟨0x01, 0x20, 0x10⟩ = .legal .init := by decide

/-- Bytes that end inside a frame. -/
theorem test_decode_incomplete : decode [0x03, 0, 0, 0, 0x02, 0, 0, 0] = .incomplete .header ∧
    decode [0x03, 0, 0, 0, 0x02, 0, 0, 0, 0, 0x6C] = .incomplete .payload := by decide

/-- The five match words of spec/opcode_table.json. -/
theorem test_table_words : decodeTableWord 72 0x010000000000000000 = some (.init [] []) ∧
    decodeTableWord 72 0x020000000000000000 = some .derive ∧
    decodeTableWord 72 0x030000000000000000 = some (.tag []) ∧
    decodeTableWord 72 0x040000000000000000 = some (.setcv []) ∧
    decodeTableWord 72 0x050000000000000000 = some (.crc32 []) := by decide

/-- A table word is what the next step runs. -/
theorem test_fetch_table_word :
    fetch (State.reset.withFetchWord 72 0x050000000000000000) = .run (.crc32 []) { State.reset with
      seq := .payload, history := [.command [0x05, 0, 0, 0, 0, 0, 0, 0, 0]] } := by decide

/-! ## Helpers: 95_test_vectors.md sections 1 and 2 -/

/-- Rows H2, H5, H6, H7. -/
theorem test_shl1 : shl1 0x80000000000000000000000000000000 = 0 ∧
    shl1 0x00000000000000000000000000000080 = 0x00000000000000000000000000000100 ∧
    shl1 0x00800000000000000000000000000000 = 0x01000000000000000000000000000000 ∧
    shl1 0xFFFFFFFFFFFFFFFFFFFFFFFFFFFFFFFF = 0xFFFFFFFFFFFFFFFFFFFFFFFFFFFFFFFE := by decide

/-- Rows H2, H3, H7, H9, H12. -/
theorem test_dbl : dbl 0x80000000000000000000000000000000 = 0x00000000000000000000000000000087 ∧
    dbl 0x40000000000000000000000000000000 = 0x80000000000000000000000000000000 ∧
    dbl 0xFFFFFFFFFFFFFFFFFFFFFFFFFFFFFFFF = 0xFFFFFFFFFFFFFFFFFFFFFFFFFFFFFF79 ∧
    dbl 0xC0000000000000000000000000000001 = 0x80000000000000000000000000000085 ∧
    dbl 0x80000000000000000000000000000043 = 0x00000000000000000000000000000001 := by decide

/-- Byte 0 is the most significant (00_scope.md R9). -/
theorem test_byte_order : Block.byte 0x0123456789ABCDEFFEDCBA9876543210 0 = 0x01 ∧
    Block.byte 0x0123456789ABCDEFFEDCBA9876543210 15 = 0x10 ∧
    Block.ofBytes keyDV4 = 0x0123456789ABCDEFFEDCBA9876543210 := by decide

/-- The rows of section 1 for 0, 1, 15, 16, 17, 31, 32 and 33 bytes. -/
theorem test_block_counts : [0, 1, 15, 16, 17, 31, 32, 33].map (fun n => (needsPadding n, numberOfBlocks n)) =
    [(true, 1), (true, 1), (true, 1), (false, 1), (true, 2), (true, 2), (false, 2), (true, 3)] := by decide

/-- `PAD` of the empty chunk, of `6C 00` and of fifteen bytes. -/
theorem test_pad : pad [] = 0x80 :: List.replicate 15 0 ∧ pad [0x6C, 0x00] = 0x6C :: 0x00 :: 0x80 :: List.replicate 13 0 ∧
    pad (counting 0 15) = counting 0 15 ++ [0x80] := by decide

/-- The first bit step of the last flush iteration for data `80`, and the seventh (95_test_vectors.md section 6). -/
theorem test_crc_step : crcStep 0x80000000 false = 0x04C11DB7 ∧ crcStep 0x9823B6E0 false = 0x34867077 := by decide

/-! ## Commands -/

/-- The cipher `TOY` of 92_eei_decisions.md D27. -/
def toy : Cipher := fun k iv p =>
  let t := xor16 (xor16 p iv) k
  Block.ofBytes ((List.range 16).map fun i => Block.byte t ((i + 1) % 16) + BitVec.ofNat 8 i)

/-- A session of the DV4 key with its subkeys, `CV` as in section 4.3, and a collaborator that answers `draws`. -/
def ready (draws : List Draw) : State := { State.reset with
  key := some 0x0123456789ABCDEFFEDCBA9876543210
  cv := some 0xF0E1D2C3B4A5968778695A4B3C2D1E0F
  k1 := some 0x468CD3195FA5EA0BC9874502C07E3C20
  k2 := some 0x8D19A632BF4BD417930E8A0580FC7840
  keyValid := true
  subkeysValid := true
  draws := draws }

/-- A session of a key without subkeys. -/
def keyed (key : Block) (draws : List Draw) : State := { State.reset with
  key := some key
  cv := some z16
  keyValid := true
  draws := draws }

/-- The state after a next state. -/
def next (o : Host.Outcome State Fault Refusal) : Option State :=
  match o with
  | .next t => some t
  | _ => none

/-- Row E8: `INIT` from reset. -/
theorem test_init : (next (exec (.init keyDV4 zeros16) State.reset)).map
    (fun t => (t.key, t.cv, t.lifecycle, responses t.history)) =
      some (some 0x0123456789ABCDEFFEDCBA9876543210, some 0, some .keyed, [[0x00, 0x00]]) := by decide

/-- Row E6: both lengths are wrong, and the key's is reported. -/
theorem test_init_wrong_lengths : (next (exec (.init (keyDV4.take 15) [0, 0, 0]) (ready []))).map
    (fun t => ([t.key, t.cv, t.k1, t.k2], t.lifecycle, responses t.history)) =
      some ([none, none, none, none], some .empty, [[0x01, 0x00]]) := by decide

/-- Rows DV6 and DV7: the second doubling tests the top bit of `K1`. -/
theorem test_derive : (fun t : State => (t.k1, t.k2, t.lifecycle, requests t.history, responses t.history))
      (deriveCommand toy (keyed 0x00800000000000000000000000000000 [.succeeds])) =
      (some 0x00020406080A0C0E10121416181A1C99, some 0x0004080C1014181C2024282C30343932, some .ready,
        [⟨0x00800000000000000000000000000000, 0, 0⟩], [[0x00, 0x00]]) ∧
    (deriveCommand toy (keyed 0x00400000000000000000000000000000 [.succeeds])).k2 =
      some 0x0004080C1014181C2024282C303438BB := by decide +kernel

/-- Row E14: a failing request leaves the old subkeys valid. -/
theorem test_derive_fails : (fun t : State => (t.k1, t.k2, t.lifecycle, responses t.history))
    (deriveCommand toy (ready [.fails 0xFF])) =
      (some 0x468CD3195FA5EA0BC9874502C07E3C20, some 0x8D19A632BF4BD417930E8A0580FC7840, some .ready,
        [[0x04, 0x01, 0xFF]]) := by decide +kernel

/-- Row TV6: 32 bytes, no padding, two blocks, `K1`, from a chaining value that is not zero. -/
theorem test_tag : (fun t : State => (t.cv, (requests t.history).length, responses t.history))
    (tagCommand toy (counting 0x10 32) (ready [.succeeds, .succeeds])) =
      (some 0x080E73F07D896CB27910DAF5443BFDC3, 2,
        [[0x00, 0x08, 0x08, 0x0E, 0x73, 0xF0, 0x7D, 0x89, 0x6C, 0xB2]]) := by decide +kernel

/-- P2 step 3: 33 bytes, padding, and the third request fails: its plaintext, the response, and `CV` as before. -/
theorem test_tag_fails : (fun t : State => (t.cv, (requests t.history)[2]?, responses t.history))
    (tagCommand toy (counting 0x10 33) (ready [.succeeds, .succeeds, .fails 0x5C])) =
      (some 0xF0E1D2C3B4A5968778695A4B3C2D1E0F,
        some ⟨0x0123456789ABCDEFFEDCBA9876543210, 0, 0x3946CC875F38A77E6D455630D2E3A541⟩,
        [[0x04, 0x01, 0x5C]]) := by decide +kernel

/-- Row E3: `SETCV` while empty. -/
theorem test_setcv_while_empty : (next (exec (.setcv (List.replicate 16 0xFF)) State.reset)).map
    (fun t => (t.cv, t.lifecycle, responses t.history)) =
      some (some 0xFFFFFFFFFFFFFFFFFFFFFFFFFFFFFFFF, some .empty, [[0x00, 0x00]]) := by decide

/-- Row E20: three bytes end the session. -/
theorem test_setcv_wrong_length : (next (exec (.setcv [0, 0, 0]) (ready []))).map
    (fun t => (t.key, t.cv, t.lifecycle, responses t.history)) =
      some (none, none, some .empty, [[0x02, 0x00]]) := by decide

/-- Row CR12: "123456789". -/
theorem test_crc32 : (next (exec (.crc32 [0x31, 0x32, 0x33, 0x34, 0x35, 0x36, 0x37, 0x38, 0x39]) State.reset)).map
    (fun t => responses t.history) = some [[0x00, 0x04, 0x89, 0xA1, 0x89, 0x7F]] := by decide +kernel

/-- Rows CR1, CR4, CR5, CR8: the flush, the polynomial, the bit order, a trailing zero. -/
theorem test_checksums : [checksum [], checksum [0x01], checksum [0x80], checksum [0x01, 0x00]] =
    [0x00000000, 0x04C11DB7, 0x690CE0EE, 0xD219C1DC] := by decide +kernel

/-- Row E17: an illegal frame with its payload, and nothing offered after it. -/
theorem test_illegal_frame :
    (next (step ((ready []).offer [0x06, 0, 0, 0, 0x02, 0, 0, 0, 0, 0xAA, 0xBB]))).map
      (fun t => (t.cmdIn, t.cv, t.lifecycle, responses t.history)) =
      some ([], some 0xF0E1D2C3B4A5968778695A4B3C2D1E0F, some .ready, [[0x05, 0x00]]) := by decide

/-- A reset after `DERIVE` has sent its request and before the answer: no response, and the reset state. -/
theorem test_reset_inside_derive :
    (next (step (State.pullReset (.duringCommand 1) ((keyed 1 [.succeeds]).offer [0x02, 0, 0, 0, 0, 0, 0, 0, 0])))) =
      some { State.reset with
        drawIndex := 1
        history := [.command [0x02, 0, 0, 0, 0, 0, 0, 0, 0], .request ⟨1, 0, 0⟩, .reset] } := rfl

/-! ## Witnesses: for each obligation with hypotheses, a state and operands that meet them; where it has several clauses, one
for each, at the ends of its range -/

theorem witness_blocks : (List.replicate 16 (0xA5 : Byte)).length = 16 ∧ 0 < 16 ∧ 15 < 16 := by decide

theorem witness_shift : (0 < 15 ∧ 14 < 15) ∧ Block.byte 0x00800000000000000000000000000000 1 >>> 7 = 1 := by decide

theorem witness_doubling : (14 < 15) ∧ (Block.byte 0x80000000000000000000000000000000 0).getLsbD 7 = true ∧
    (Block.byte 0x7FFFFFFFFFFFFFFFFFFFFFFFFFFFFFFF 0).getLsbD 7 = false := by decide

theorem witness_block_count : needsPadding 0 = true ∧ needsPadding 15 = true ∧ needsPadding 16 = false ∧
    needsPadding 17 = true := by decide

theorem witness_chunks : 0 + 1 < numberOfBlocks (counting 0 17).length ∧ needsPadding (counting 0 17).length = true ∧
    needsPadding (counting 0 32).length = false ∧ (lastChunk (counting 0 17)).length = 1 := by decide

theorem witness_padding : ([] : List Byte).length ≤ 15 ∧ (counting 0 15).length ≤ 15 := by decide

theorem witness_written_out_padding : ([] : List Byte).length < 16 ∧ (counting 0 15).length < 16 := by decide

theorem witness_init : keyDV4.length = 16 ∧ zeros16.length = 16 := by decide

theorem witness_invalid_key : (keyDV4.take 15).length ≠ 16 ∧ (keyDV4 ++ [0]).length ≠ 16 ∧
    State.reset.keyValid = false := by decide

theorem witness_invalid_cv : keyDV4.length = 16 ∧ (zeros16 ++ [0]).length ≠ 16 ∧ ([] : List Byte).length ≠ 16 := by
  decide

theorem witness_derive : (keyed 1 [.succeeds]).keyValid = true ∧ (keyed 1 [.succeeds]).drawAt 0 = .succeeds := by decide

theorem witness_derive_twice : (keyed 1 [.succeeds, .succeeds]).keyValid = true ∧
    (keyed 1 [.succeeds, .succeeds]).drawAt 0 = .succeeds ∧ (keyed 1 [.succeeds, .succeeds]).drawAt 1 = .succeeds := by
  decide

theorem witness_cipher_failure : ((keyed 1 [.fails 0x2A]).keyValid = true ∧
      (keyed 1 [.fails 0x2A]).drawAt 0 = .fails 0x2A) ∧
    ((ready [.fails 0x00]).subkeysValid = true ∧ 0 < numberOfBlocks ([] : List Byte).length ∧
      (∀ i < 0, (ready [.fails 0x00]).drawAt i = .succeeds) ∧ (ready [.fails 0x00]).drawAt 0 = .fails 0x00) ∧
    ((ready [.succeeds, .fails 0x07]).subkeysValid = true ∧ 1 < numberOfBlocks (counting 0x10 17).length ∧
      (∀ i < 1, (ready [.succeeds, .fails 0x07]).drawAt i = .succeeds) ∧
      (ready [.succeeds, .fails 0x07]).drawAt 1 = .fails 0x07) := by decide

theorem witness_tag_without_subkeys : State.reset.subkeysValid = false ∧ (keyed 1 []).subkeysValid = false := by decide

theorem witness_tag : (ready [.succeeds, .succeeds]).subkeysValid = true ∧
    (∀ j < numberOfBlocks (counting 0x10 17).length, (ready [.succeeds, .succeeds]).drawAt j = .succeeds) ∧
    (∀ j < numberOfBlocks ([] : List Byte).length, (ready [.succeeds]).drawAt j = .succeeds) := by decide

theorem witness_failed_tag : (ready [.succeeds, .fails 0x07]).subkeysValid = true ∧
    (∀ i < 1, (ready [.succeeds, .fails 0x07]).drawAt i = .succeeds) ∧
    (ready [.succeeds, .fails 0x07]).drawAt 1 = .fails 0x07 ∧
    (messageBlocks (counting 0x10 17) ((ready []).read .k1) ((ready []).read .k2))[1]? =
      some 0xAD99A632BF4BD417930E8A0580FC7840 := by decide +kernel

theorem witness_exchanges : ([1, 2] : List Block)[0]? = some 1 ∧ ([1, 2] : List Block)[1]? = some 2 := by decide

theorem witness_carry_over : (ready [.succeeds, .succeeds, .succeeds]).subkeysValid = true ∧ zeros16.length = 16 ∧
    (∀ j < numberOfBlocks (counting 0 17).length + numberOfBlocks [(0xAF : Byte)].length,
      (ready [.succeeds, .succeeds, .succeeds]).drawAt j = .succeeds) := by decide

/-- Two ready states of different `K1` that agree on what a padded message's Tag depends on. -/
theorem witness_tag_dependence : (ready [.succeeds]).k1 ≠ ({ ready [.succeeds] with k1 := some 0 }).k1 ∧
    (ready [.succeeds]).k2 = ({ ready [.succeeds] with k1 := some 0 }).k2 ∧
    needsPadding ([0x6C, 0x00] : List Byte).length = true ∧
    (∀ j < numberOfBlocks ([0x6C, 0x00] : List Byte).length,
      (ready [.succeeds]).drawAt j = ({ ready [.succeeds] with k1 := some 0 }).drawAt j) ∧
    (next (exec (.tag [0x6C, 0x00]) (ready [.succeeds]))).isSome ∧
    (next (exec (.tag [0x6C, 0x00]) { ready [.succeeds] with k1 := some 0 })).isSome := by
  refine ⟨by decide, rfl, by decide, by decide, rfl, rfl⟩

/-- The same for an unpadded message and different `K2`. -/
theorem witness_tag_dependence_unpadded : (ready [.succeeds]).k2 ≠ ({ ready [.succeeds] with k2 := some 0 }).k2 ∧
    (ready [.succeeds]).k1 = ({ ready [.succeeds] with k2 := some 0 }).k1 ∧
    needsPadding zeros16.length = false ∧
    (∀ j < numberOfBlocks zeros16.length,
      (ready [.succeeds]).drawAt j = ({ ready [.succeeds] with k2 := some 0 }).drawAt j) ∧
    (next (exec (.tag zeros16) (ready [.succeeds]))).isSome ∧
    (next (exec (.tag zeros16) { ready [.succeeds] with k2 := some 0 })).isSome := by
  refine ⟨by decide, rfl, by decide, by decide, rfl, rfl⟩

theorem witness_full_session : keyS2.length = 16 ∧ zeros16.length = 16 ∧
    ∀ j < numberOfBlocks ([0x6C, 0x00] : List Byte).length + 1,
      ({ State.reset with draws := [.succeeds, .succeeds] }).drawAt j = .succeeds := by decide

theorem witness_crc_bits : 0 < 32 ∧ 31 < 32 ∧ 0 < 8 ∧ 7 < 8 := by decide

theorem witness_linear : ([0xDE, 0xAD, 0xBE, 0xEF] : List Byte).length = ([0x01, 0x04, 0xC1, 0x1D] : List Byte).length := by
  decide

theorem witness_lengths : 0 ≤ 2 ^ 32 - 1 ∧ lengthBytes (2 ^ 32 - 1) = [0xFF, 0xFF, 0xFF, 0xFF] := by decide

theorem witness_header : (⟨0x03, Config.maxLen, 0⟩ : Header).alen ≤ Config.maxLen ∧
    (⟨0x03, Config.maxLen, 0⟩ : Header).blen ≤ Config.maxLen := by decide

/-- Row E17 offered to a ready block. -/
def offeredIllegal : State := (ready []).offer [0x06, 0, 0, 0, 0x02, 0, 0, 0, 0, 0xAA, 0xBB]

theorem witness_illegal : offeredIllegal.resetIn = .released ∧ offeredIllegal.ready = true ∧
    parseHeader offeredIllegal.cmdIn = some (⟨0x06, 2, 0⟩, [0xAA, 0xBB]) ∧
    decodeHeader ⟨0x06, 2, 0⟩ = .illegal .reservedOpcode ∧ 2 + 0 ≤ ([0xAA, 0xBB] : List Byte).length ∧
    decode offeredIllegal.cmdIn = .illegal .reservedOpcode 11 := by decide

theorem witness_self_delimiting :
    parseHeader [0x03, 0, 0, 0, 0x02, 0, 0, 0, 0, 0x6C] = some (⟨0x03, 2, 0⟩, [0x6C]) ∧
    decode [0x03, 0, 0, 0, 0x02, 0, 0, 0, 0, 0x6C, 0x00, 0xFF] = .instr (.tag [0x6C, 0x00]) 11 := by decide

theorem witness_round_trip : (Instr.init keyS2 zeros16).wellFormed = true ∧ (Instr.tag []).wellFormed = true := by decide

/-- `TAG 6C 00` offered to a ready block. -/
def offeredTag : State := (ready [.succeeds]).offer [0x03, 0, 0, 0, 0x02, 0, 0, 0, 0, 0x6C, 0x00]

theorem witness_step_runs : offeredTag.resetIn = .released ∧ offeredTag.ready = true ∧
    decode offeredTag.cmdIn = .instr (.tag [0x6C, 0x00]) 11 := by decide

theorem witness_quiet : (ready [.succeeds]).Quiet := by
  refine ⟨rfl, rfl, rfl, rfl, rfl, rfl, rfl⟩

theorem witness_offered_frame : (ready [.succeeds]).Quiet ∧ (ready [.succeeds]).resetIn = .released ∧
    (ready [.succeeds]).cmdIn = [] ∧ (Instr.tag [0x6C, 0x00]).wellFormed = true :=
  ⟨witness_quiet, rfl, rfl, by decide⟩

theorem witness_waiting : State.reset.resetIn = .released ∧ State.reset.ready = true ∧ State.reset.cmdIn = [] := by decide

theorem witness_stuck : step (State.reset.offer [0x03]) = .fault .stuckInsideFrame ∧
    step { State.reset with seq := .executeTag 0 } = .fault .notIdle := ⟨rfl, rfl⟩

/-- Nothing between the `INIT` and the `TAG`, and every command but `DERIVE`. -/
theorem witness_tag_after_init : keyDV4.length = 16 ∧ zeros16.length = 16 ∧
    (∀ i ∈ ([] : List Instr), i.op ≠ .derive) ∧
    (∀ i ∈ [Instr.tag [], .setcv [], .crc32 [], .init keyDV4 zeros16], i.op ≠ .derive) := by decide

/-- A reset between two commands, and one when all but one of the bytes of a frame, legal or illegal, have been taken; no
more can be lost of either. -/
theorem witness_reset : (State.pullReset (.beforeCommand 0) (ready [])).resetIn = .beforeCommand 0 ∧
    ((State.pullReset (.beforeCommand 10) offeredTag).resetIn = .beforeCommand 10 ∧
      (State.pullReset (.beforeCommand 10) offeredTag).ready = true ∧
      decode (State.pullReset (.beforeCommand 10) offeredTag).cmdIn = .instr (.tag [0x6C, 0x00]) 11 ∧
      (State.resetInFrame 10 offeredTag).cmdIn = [0x00] ∧ (State.resetInFrame 11 offeredTag).cmdIn = [0x00]) ∧
    ((State.pullReset (.beforeCommand 10) offeredIllegal).ready = true ∧
      decode (State.pullReset (.beforeCommand 10) offeredIllegal).cmdIn = .illegal .reservedOpcode 11 ∧
      (State.resetInFrame 10 offeredIllegal).cmdIn = [0xBB] ∧ (State.resetInFrame 11 offeredIllegal).cmdIn = [0xBB]) := by
  decide

/-- A reset inside a frame whose rest is not offered, where more bytes than were offered are asked for, and one inside a
command, where no byte of the next frame has been taken. -/
theorem witness_reset_unfinished : ((State.pullReset (.beforeCommand 1) ((ready []).offer [0x03, 0x00])).ready = true ∧
      decode (State.pullReset (.beforeCommand 1) ((ready []).offer [0x03, 0x00])).cmdIn = .incomplete .header ∧
      (State.resetInFrame 1 ((ready []).offer [0x03, 0x00])).cmdIn = [0x00] ∧
      (State.resetInFrame 3 ((ready []).offer [0x03, 0x00])).cmdIn = []) ∧
    (State.pullReset (.beforeCommand 1) { offeredTag with seq := .executeTag 0 }).ready = false ∧
    (State.resetInFrame 1 { offeredTag with seq := .executeTag 0 }).cmdIn = offeredTag.cmdIn := by decide

/-- A reset before a command's first request, one between a request and its answer, and one before the response to an
illegal frame. -/
theorem witness_reset_inside : (State.pullReset (.duringCommand 0) offeredTag).resetIn = .duringCommand 0 ∧
    (State.pullReset (.duringCommand 1) offeredTag).resetIn = .duringCommand 1 ∧
    (State.pullReset (.duringCommand 1) offeredTag).ready = true ∧
    decode (State.pullReset (.duringCommand 1) offeredTag).cmdIn = .instr (.tag [0x6C, 0x00]) 11 ∧
    (State.pullReset (.duringCommand 0) offeredIllegal).resetIn = .duringCommand 0 ∧
    (State.pullReset (.duringCommand 0) offeredIllegal).ready = true ∧
    decode (State.pullReset (.duringCommand 0) offeredIllegal).cmdIn = .illegal .reservedOpcode 11 := by decide

theorem witness_requests : (next (exec .derive (keyed 1 [.succeeds]))).isSome ∧
    AnswersWith (exec (.tag []) (ready [.succeeds])) 0x00 := by
  refine ⟨rfl, _, _, rfl, rfl⟩

/-- One command for each status of a command. -/
theorem witness_statuses : AnswersWith (exec (.setcv zeros16) State.reset) 0x00 ∧
    AnswersWith (exec .derive State.reset) 0x01 ∧ AnswersWith (exec (.setcv []) State.reset) 0x02 ∧
    AnswersWith (exec (.tag []) State.reset) 0x03 ∧ AnswersWith (exec .derive (keyed 1 [.fails 0x2A])) 0x04 := by
  refine ⟨⟨_, _, rfl, rfl⟩, ⟨_, _, rfl, rfl⟩, ⟨_, _, rfl, rfl⟩, ⟨_, _, rfl, rfl⟩, ⟨_, _, rfl, rfl⟩⟩

theorem witness_only_init_revives : (∀ i ∈ [Instr.derive, .tag [], .setcv zeros16, .crc32 []], i.op ≠ .init) ∧
    State.reset.lifecycle = some .empty ∧ zeros16.length = 16 := by decide

theorem witness_secrecy : Instr.derive.op ≠ .tag ∧ (keyed 1 [.succeeds]).keyValid = (keyed 2 [.succeeds]).keyValid ∧
    (keyed 1 [.succeeds]).key ≠ (keyed 2 [.succeeds]).key ∧
    (keyed 1 [.succeeds]).drawAt 0 = (keyed 2 [.succeeds]).drawAt 0 ∧
    (next (exec .derive (keyed 1 [.succeeds]))).isSome ∧ (next (exec .derive (keyed 2 [.succeeds]))).isSome := by
  refine ⟨by decide, rfl, by decide, rfl, rfl, rfl⟩

/-- A ready state whose subkeys are those of its key, with `TAG -` offered. -/
def liveSession : State := ({ keyed 1 [.succeeds] with
  k1 := some (dbl (Config.enc 1 z16 z16))
  k2 := some (dbl (dbl (Config.enc 1 z16 z16)))
  subkeysValid := true }).offer [0x03, 0, 0, 0, 0, 0, 0, 0, 0]

theorem witness_session_inv : liveSession.SessionInv ∧ (next (step liveSession)).isSome := by
  refine ⟨⟨fun _ => rfl, fun _ => ⟨rfl, rfl⟩, fun _ => ⟨1, rfl, rfl, rfl⟩, fun h => ?_, fun h => ?_⟩, rfl⟩ <;> cases h

theorem witness_history : liveSession.Quiet ∧ HistoryComplete liveSession.history ∧ (next (step liveSession)).isSome := by
  refine ⟨⟨rfl, rfl, rfl, rfl, rfl, rfl, rfl⟩, rfl, rfl⟩

theorem witness_responses_legal : (∀ r ∈ responses ({ liveSession with history := [.response [0x05, 0x00]] }).history,
    LegalResponse r) ∧ (next (step { liveSession with history := [.response [0x05, 0x00]] })).isSome := by
  refine ⟨?_, rfl⟩
  intro r hr
  cases List.mem_singleton.mp hr
  exact .illegalCommand

/-- Two instances: each takes its step in turn. -/
theorem witness_instances : ∃ sysN sysNM, (0 : Nat) ≠ 1 ∧
    (System.mk [offeredTag, offeredIllegal]).stepInstance 1 = .next sysN ∧ sysN.stepInstance 0 = .next sysNM := by
  refine ⟨_, _, by decide, rfl, rfl⟩

theorem witness_instances_after_reset : System.reset.sessions[0]? = some State.reset ∧
    (System.mk [ready []]).resetAll.sessions[0]? = some { State.reset with history := [.reset] } := by
  refine ⟨?_, rfl⟩
  rw [System.reset, List.getElem?_map, List.getElem?_range (n := Config.nsess) (Nat.succ_pos _)]
  rfl

end Sys2Proof.Tests
end

section
/-! PROOFS. Byte order: a 16-byte value and its sixteen bytes determine each other (00_scope.md R9, 20_memory.md R53). -/

namespace Sys2Proof.Machine

/-- Each of a value's bytes stands at its own index. -/
theorem Block.getElem?_toBytes (v : Block) {i : Nat} (hi : i < 16) :
    (Block.toBytes v)[i]? = some (Block.byte v i) := by
  simp [Block.toBytes, hi]

/-- A byte is a base-256 digit of the value, byte 15 the digit of weight one. -/
theorem Block.toNat_byte (v : Block) (i : Nat) :
    (Block.byte v i).toNat = v.toNat / 256 ^ (15 - i) % 256 := by
  rw [Block.byte, BitVec.extractLsb'_toNat, Nat.shiftRight_eq_div_pow, Nat.pow_mul]

/-- The byte at an index of a value put together from sixteen bytes is the byte given at that index. -/
theorem Block.byte_ofBytes {bytes : List Byte} (hlen : bytes.length = 16) {i : Nat} (hi : i < 16) :
    bytes[i]? = some (Block.byte (Block.ofBytes bytes) i) := by
  have hbyte : Block.byte (Block.ofBytes bytes) i = bytes.reverse.getD (15 - i) 0#8 := by
    refine BitVec.eq_of_getLsbD_eq fun j hj => ?_
    rw [Block.getLsbD_byte, Block.getLsbD_ofBytes bytes (15 - i) j hj (by omega)]
    simp [hj]
  have hindex : bytes.length - 1 - (15 - i) = i := by omega
  rw [hbyte, List.getD_eq_getElem?_getD, List.getElem?_reverse (by omega), hindex,
    List.getElem?_eq_getElem (by omega), Option.getD_some]

/-- Sixteen bytes are the bytes of the value put together from them. -/
theorem Block.toBytes_ofBytes {bytes : List Byte} (hlen : bytes.length = 16) :
    Block.toBytes (Block.ofBytes bytes) = bytes := by
  refine List.ext_getElem? fun i => ?_
  by_cases hi : i < 16
  · rw [Block.getElem?_toBytes _ hi, Block.byte_ofBytes hlen hi]
  · rw [List.getElem?_eq_none (by simpa using hi), List.getElem?_eq_none (by omega)]

/-- Reading the first `k` bytes base 256, byte 0 the most significant, gives the value without its last `16 - k` bytes. -/
theorem Block.foldl_byte_range (v : Block) : ∀ k ≤ 16,
    (List.range k).foldl (fun n i => 256 * n + (Block.byte v i).toNat) 0 = v.toNat / 256 ^ (16 - k) := by
  intro k
  induction k with
  | zero => intro _; exact (Nat.div_eq_of_lt v.isLt).symm
  | succ k ih =>
    intro hk
    have hpow : 256 ^ (16 - k) = 256 ^ (15 - k) * 256 := by rw [← Nat.pow_succ]; congr 1; omega
    have hlast : 16 - (k + 1) = 15 - k := by omega
    rw [List.range_succ, List.foldl_concat, ih (by omega), Block.toNat_byte, hpow, hlast, ← Nat.div_div_eq_div_mul,
      Nat.div_add_mod]

/-- As a number, a value is its bytes read base 256, byte 0 the most significant. -/
theorem Block.toNat_eq_foldl_byte (v : Block) :
    v.toNat = (List.range 16).foldl (fun n i => 256 * n + (Block.byte v i).toNat) 0 := by
  simpa using (Block.foldl_byte_range v 16 le_rfl).symm

/-- Values with the same sixteen bytes are equal. -/
theorem Block.toBytes_injective : Function.Injective Block.toBytes := by
  intro v w h
  have hbyte : ∀ i ∈ List.range 16, Block.byte v i = Block.byte w i := List.map_inj_left.mp h
  refine BitVec.eq_of_toNat_eq ?_
  rw [Block.toNat_eq_foldl_byte v, Block.toNat_eq_foldl_byte w]
  exact List.foldl_ext _ _ _ fun n i hi => by rw [hbyte i hi]

/-- Every value is put together from its own bytes. -/
theorem Block.ofBytes_toBytes (v : Block) : Block.ofBytes (Block.toBytes v) = v :=
  Block.toBytes_injective (Block.toBytes_ofBytes (Block.length_toBytes v))

/-- Settles O1: the bits of a value put together from a list give its bytes back, and the bytes, read base 256, give the
number back. -/
theorem blocksAreTheirBytesMostSignificantFirst : Obligations.BlocksAreTheirBytesMostSignificantFirst :=
  ⟨fun _ hlen => ⟨Block.toBytes_ofBytes hlen, fun _ hi => Block.byte_ofBytes hlen hi⟩,
    fun v => ⟨Block.ofBytes_toBytes v, Block.toNat_eq_foldl_byte v⟩⟩

end Sys2Proof.Machine
end

section
/-! PROOFS. What each command leads to (40_session_commands.md R120, R121; 41_subkey_derivation.md R143;
42_tag_computation.md R160, R166, R167; 43_crc32.md R190): one equation per command and case, each ending in `raise` or
in `respond` from a state that says what the command has written and observed. -/

namespace Sys2Proof.Machine

/-- Taking an error looks at the settled state alone. -/
theorem State.raise_congr {s t : State} (h : s.settled = t.settled) (e : CmdError) : s.raise e = t.raise e := by
  rw [State.raise_eq, State.raise_eq, h]

/-- A successful response looks at the settled state alone. -/
theorem State.respond_congr {s t : State} (h : s.settled = t.settled) (result : List Byte) :
    s.respond result = t.respond result := by
  rw [State.respond_eq, State.respond_eq, h]

/-- Settling passes over a write of `CV`. -/
theorem State.settled_write_cv (v : Block) (s : State) : (s.write .cv v).settled = s.settled.write .cv v := rfl

/-- Reading sixteen bytes of a 16-byte operand gives the operand. -/
theorem memRead_zero_sixteen {operand : List Byte} (h : operand.length = 16) : memRead operand 0 16 = operand := by
  rw [memRead, List.drop_zero, ← h, List.take_length]

/-- What a successful `INIT` leaves in the session (40_session_commands.md R120). -/
def State.startSession (key cv : Block) (s : State) : State :=
  ((((s.write .key key).write .cv cv).lose .k1).lose .k2).setFlags true false

theorem exec_init_of_length_eq {key cv : List Byte} (hkey : key.length = 16) (hcv : cv.length = 16) (s : State) :
    exec (.init key cv) s = .next ((s.startSession (Block.ofBytes key) (Block.ofBytes cv)).respond []) := by
  have h : initCommand key cv s =
      (s.startSession (Block.ofBytes (memRead key 0 16)) (Block.ofBytes (memRead cv 0 16))).respond [] :=
    (if_neg (not_not_intro hkey)).trans (if_neg (not_not_intro hcv))
  rw [memRead_zero_sixteen hkey, memRead_zero_sixteen hcv] at h
  exact congrArg _ h

theorem exec_init_of_key_length_ne {key : List Byte} (hkey : key.length ≠ 16) (cv : List Byte) (s : State) :
    exec (.init key cv) s = .next (s.raise .invalidKeyLength) :=
  congrArg Host.Outcome.next (if_pos hkey)

theorem exec_init_of_cv_length_ne {key cv : List Byte} (hkey : key.length = 16) (hcv : cv.length ≠ 16) (s : State) :
    exec (.init key cv) s = .next (s.raise .invalidChainingValueLength) :=
  congrArg Host.Outcome.next ((if_neg (not_not_intro hkey)).trans (if_pos hcv))

theorem exec_setcv_of_length_eq {value : List Byte} (hvalue : value.length = 16) (s : State) :
    exec (.setcv value) s = .next ((s.write .cv (Block.ofBytes value)).respond []) := by
  have h : setcvCommand value s = (s.write .cv (Block.ofBytes (memRead value 0 16))).respond [] :=
    if_neg (not_not_intro hvalue)
  rw [memRead_zero_sixteen hvalue] at h
  exact congrArg _ h

theorem exec_setcv_of_length_ne {value : List Byte} (hvalue : value.length ≠ 16) (s : State) :
    exec (.setcv value) s = .next (s.raise .invalidChainingValueLength) :=
  congrArg Host.Outcome.next (if_pos hvalue)

theorem exec_crc32 (data : List Byte) (s : State) :
    exec (.crc32 data) s = .next (s.respond (word32Bytes (checksum data))) := by
  obtain ⟨hread, hsettled⟩ := crcPass_spec (byteIterations data) 0
    { s.begin data [] with crcReg := some Config.crcInit }
  refine congrArg Host.Outcome.next ?_
  calc crcCommand data s
      = s.respond (word32Bytes (crcPass 0 (byteIterations data)
          { s.begin data [] with crcReg := some Config.crcInit }).readCrc) := State.respond_congr hsettled _
    _ = s.respond (word32Bytes (checksum data)) := by rw [hread]; rfl

/-- What a successful `DERIVE` writes, from the answer `base` (41_subkey_derivation.md R143). -/
def State.writeSubkeys (base : Block) (s : State) : State :=
  ((s.write .k1 (dbl base)).write .k2 (dbl (dbl base))).setFlags s.keyValid true

/-- The one request of `DERIVE` (41_subkey_derivation.md R143) and the answer to it. -/
def State.exchangeBase (a : CipherAnswer) (s : State) : State :=
  (s.sendRequest ⟨s.read .key, z16, z16⟩).receiveAnswer a

theorem exec_derive_of_no_key {s : State} (hkey : s.keyValid = false) :
    exec .derive s = .next (s.raise .invalidKeyLength) :=
  congrArg Host.Outcome.next (if_pos hkey)

theorem exec_derive_of_success {s : State} (hkey : s.keyValid = true) (hdraw : s.drawAt 0 = .succeeds) :
    exec .derive s = .next (((s.exchangeBase (.ok (Config.enc (s.read .key) z16 z16))).writeSubkeys
      (Config.enc (s.read .key) z16 z16)).respond []) := by
  have hbegin : ¬ (s.begin [] []).keyValid = false := by simp [hkey]
  have hnext : (s.begin [] []).nextDraw = .succeeds := (State.nextDraw_eq_drawAt s).trans hdraw
  simp only [exec, execDerive, deriveCommand]
  rw [if_neg hbegin, State.cipherCall_succeeds (h := hnext)]
  rfl

theorem exec_derive_of_failure {s : State} {e : Byte} (hkey : s.keyValid = true) (hdraw : s.drawAt 0 = .fails e) :
    exec .derive s = .next ((s.exchangeBase (.fail e)).raise (.cipherPrimitiveFailure e)) := by
  have hbegin : ¬ (s.begin [] []).keyValid = false := by simp [hkey]
  have hnext : (s.begin [] []).nextDraw = .fails e := (State.nextDraw_eq_drawAt s).trans hdraw
  simp only [exec, execDerive, deriveCommand]
  rw [if_neg hbegin, State.cipherCall_fails (h := hnext)]
  rfl

/-- The blocks a `TAG` chains from a state (42_tag_computation.md R164). -/
def State.tagBlocks (m : List Byte) (s : State) : List Block := messageBlocks m (s.read .k1) (s.read .k2)

@[simp] theorem State.length_tagBlocks (m : List Byte) (s : State) :
    (s.tagBlocks m).length = numberOfBlocks m.length := length_messageBlocks ..

/-- The state a `TAG` chains its blocks from: the message in the operand store and `CV` in `W` (42_tag_computation.md
R165). -/
def State.startTag (m : List Byte) (s : State) : State := (s.begin m []).write .w (s.read .cv)

/-- The state after the cipher port has seen the events `es`, with `n` decisions used up. -/
def State.exchanged (n : Nat) (es : List Event) (s : State) : State :=
  { s with draws := s.draws.drop n, drawIndex := s.drawIndex + n, history := s.history ++ es }

theorem exec_tag_of_no_subkeys {s : State} (hsub : s.subkeysValid = false) (m : List Byte) :
    exec (.tag m) s = .next (s.raise .uninitializedSubkeys) :=
  congrArg Host.Outcome.next (if_pos hsub)

/-- How a `TAG` ends once its chaining pass has: it raises the collaborator's code (42_tag_computation.md R167), or
commits and answers what `W` holds (R166). -/
def finishTag : Option Byte × State → State
  | (some e, u) => u.raise (.cipherPrimitiveFailure e)
  | (none, u) => (u.write .cv (u.read .w)).respond (Block.first8 (u.read .w))

theorem finishTag_of_some {p : Option Byte × State} {e : Byte} (h : p.1 = some e) :
    finishTag p = p.2.raise (.cipherPrimitiveFailure e) := by
  obtain ⟨_, u⟩ := p
  subst h
  rfl

theorem finishTag_of_none {p : Option Byte × State} (h : p.1 = none) :
    finishTag p = (p.2.write .cv (p.2.read .w)).respond (Block.first8 (p.2.read .w)) := by
  obtain ⟨_, u⟩ := p
  subst h
  rfl

theorem exec_tag_of_subkeys {s : State} (hsub : s.subkeysValid = true) (m : List Byte) :
    exec (.tag m) s = .next (finishTag (tagPass Config.enc 0 (s.tagBlocks m) (s.startTag m))) := by
  have hbegin : ¬ (s.begin m []).subkeysValid = false := by simp [hsub]
  have hoperand : (s.begin m []).operandA = m := rfl
  simp only [exec, execTag, tagCommand, State.read_begin]
  rw [if_neg hbegin, hoperand]
  rfl

theorem exec_tag_of_success {s : State} {m : List Byte} (hsub : s.subkeysValid = true)
    (hdraws : ∀ j < numberOfBlocks m.length, s.drawAt j = .succeeds) :
    exec (.tag m) s = .next (((s.exchanged (numberOfBlocks m.length)
        (exchanges Config.enc (s.read .key) (s.read .cv) (s.tagBlocks m))).write .cv
          (chain Config.enc (s.read .key) (s.read .cv) (s.tagBlocks m))).respond
        (Block.first8 (chain Config.enc (s.read .key) (s.read .cv) (s.tagBlocks m)))) := by
  obtain ⟨hnone, hw, hsettled⟩ := tagPass_all_succeed Config.enc (s.tagBlocks m) 0 (s.startTag m)
    (by rw [State.length_tagBlocks]; exact hdraws)
  rw [State.length_tagBlocks] at hsettled
  rw [exec_tag_of_subkeys hsub, finishTag_of_none hnone, hw]
  refine congrArg Host.Outcome.next (State.respond_congr ?_ _)
  rw [State.settled_write_cv, hsettled]
  rfl

theorem exec_tag_of_first_failure {s : State} {m : List Byte} {j : Nat} {e : Byte} (hsub : s.subkeysValid = true)
    (hj : j < (s.tagBlocks m).length) (hdraws : ∀ i < j, s.drawAt i = .succeeds) (hfail : s.drawAt j = .fails e) :
    exec (.tag m) s = .next ((s.exchanged (j + 1)
        (exchanges Config.enc (s.read .key) (s.read .cv) ((s.tagBlocks m).take j) ++
          [.request ⟨s.read .key, z16, xor16 (s.tagBlocks m)[j]
              (chain Config.enc (s.read .key) (s.read .cv) ((s.tagBlocks m).take j))⟩,
            .answer (.fail e)])).raise (.cipherPrimitiveFailure e)) := by
  obtain ⟨hsome, hsettled⟩ :=
    tagPass_first_failure Config.enc (s.tagBlocks m) 0 (s.startTag m) j e hj hdraws hfail
  rw [exec_tag_of_subkeys hsub, finishTag_of_some hsome]
  refine congrArg Host.Outcome.next (State.raise_congr ?_ _)
  rw [hsettled, List.append_assoc]
  rfl

end Sys2Proof.Machine
end

section
/-! PROOFS. The session's registers and flags (10_state.md R20 to R29): what each command may leave in them and how it
answers, said once. -/

namespace Sys2Proof.Machine

/-- Two states agree on the registers and flags of the session (10_state.md R20, R26, R27). -/
structure State.SameSession (s t : State) : Prop where
  key : s.key = t.key
  cv : s.cv = t.cv
  k1 : s.k1 = t.k1
  k2 : s.k2 = t.k2
  keyValid : s.keyValid = t.keyValid
  subkeysValid : s.subkeysValid = t.subkeysValid

theorem State.SameSession.refl (s : State) : s.SameSession s := ⟨rfl, rfl, rfl, rfl, rfl, rfl⟩

theorem State.SameSession.trans {s t u : State} (h : s.SameSession t) (h' : t.SameSession u) : s.SameSession u :=
  ⟨h.key.trans h'.key, h.cv.trans h'.cv, h.k1.trans h'.k1, h.k2.trans h'.k2, h.keyValid.trans h'.keyValid,
    h.subkeysValid.trans h'.subkeysValid⟩

theorem State.respond_sameSession (result : List Byte) (s : State) : (s.respond result).SameSession s :=
  ⟨rfl, rfl, rfl, rfl, rfl, rfl⟩

/-- A fatal error ends the session (60_exceptions.md R212, R213). -/
theorem State.raise_sameSession_of_fatal {e : CmdError} (h : e.fatal = true) (s : State) :
    (s.raise e).SameSession s.endSession := by
  rw [State.raise_eq, if_pos h]
  exact ⟨rfl, rfl, rfl, rfl, rfl, rfl⟩

/-- An error that is not fatal leaves the session alone (60_exceptions.md R211, R214, R215). -/
theorem State.raise_sameSession_of_not_fatal {e : CmdError} (h : e.fatal = false) (s : State) :
    (s.raise e).SameSession s := by
  rw [State.raise_eq, h]
  exact ⟨rfl, rfl, rfl, rfl, rfl, rfl⟩

/-- The rows of 10_state.md R37: what a successful command leaves in the session. -/
inductive SessionUpdate (s : State) : Instr → State → Prop
  | init (key cv : List Byte) :
      SessionUpdate s (.init key cv) (s.startSession (Block.ofBytes key) (Block.ofBytes cv))
  | derive (hkey : s.keyValid = true) : SessionUpdate s .derive (s.writeSubkeys (Config.enc (s.read .key) z16 z16))
  | tag (m : List Byte) :
      SessionUpdate s (.tag m) (s.write .cv (chain Config.enc (s.read .key) (s.read .cv) (s.tagBlocks m)))
  | setcv (value : List Byte) : SessionUpdate s (.setcv value) (s.write .cv (Block.ofBytes value))
  | crc32 (data : List Byte) : SessionUpdate s (.crc32 data) s

/-- What a command may come to from `s`: an error raised from a state in which nothing of the session has changed, or a
result answered from one in which what the command's row of 10_state.md R37 says has. -/
inductive CommandOutcome (s : State) (i : Instr) : State → Prop
  | raised {u : State} (e : CmdError) (same : u.SameSession s) : CommandOutcome s i (u.raise e)
  | answered {u v : State} (result : List Byte) (update : SessionUpdate s i v) (same : u.SameSession v) :
      CommandOutcome s i (u.respond result)

theorem exec_outcome_init (key cv : List Byte) (s : State) :
    ∃ t, exec (.init key cv) s = .next t ∧ CommandOutcome s (.init key cv) t := by
  by_cases hkey : key.length = 16
  · by_cases hcv : cv.length = 16
    · exact ⟨_, exec_init_of_length_eq hkey hcv s, .answered _ (.init key cv) (.refl _)⟩
    · exact ⟨_, exec_init_of_cv_length_ne hkey hcv s, .raised _ (.refl _)⟩
  · exact ⟨_, exec_init_of_key_length_ne hkey cv s, .raised _ (.refl _)⟩

theorem exec_outcome_setcv (value : List Byte) (s : State) :
    ∃ t, exec (.setcv value) s = .next t ∧ CommandOutcome s (.setcv value) t := by
  by_cases hvalue : value.length = 16
  · exact ⟨_, exec_setcv_of_length_eq hvalue s, .answered _ (.setcv value) (.refl _)⟩
  · exact ⟨_, exec_setcv_of_length_ne hvalue s, .raised _ (.refl _)⟩

theorem exec_outcome_derive (s : State) : ∃ t, exec .derive s = .next t ∧ CommandOutcome s .derive t := by
  cases hkey : s.keyValid with
  | false => exact ⟨_, exec_derive_of_no_key hkey, .raised _ (.refl _)⟩
  | true =>
    cases hdraw : s.drawAt 0 with
    | succeeds =>
      exact ⟨_, exec_derive_of_success hkey hdraw, .answered _ (.derive hkey) ⟨rfl, rfl, rfl, rfl, rfl, rfl⟩⟩
    | fails e => exact ⟨_, exec_derive_of_failure hkey hdraw, .raised _ ⟨rfl, rfl, rfl, rfl, rfl, rfl⟩⟩

theorem exec_outcome_tag (m : List Byte) (s : State) :
    ∃ t, exec (.tag m) s = .next t ∧ CommandOutcome s (.tag m) t := by
  cases hsub : s.subkeysValid with
  | false => exact ⟨_, exec_tag_of_no_subkeys hsub m, .raised _ (.refl _)⟩
  | true =>
    rcases s.draws_succeed_or_first_failure (s.tagBlocks m).length with hall | ⟨j, e, hj, hdraws, hfail⟩
    · rw [State.length_tagBlocks] at hall
      exact ⟨_, exec_tag_of_success hsub hall, .answered _ (.tag m) ⟨rfl, rfl, rfl, rfl, rfl, rfl⟩⟩
    · exact ⟨_, exec_tag_of_first_failure hsub hj hdraws hfail, .raised _ ⟨rfl, rfl, rfl, rfl, rfl, rfl⟩⟩

/-- Every command, in every state, has an outcome of the kinds named. -/
theorem exec_outcome (i : Instr) (s : State) : ∃ t, exec i s = .next t ∧ CommandOutcome s i t := by
  cases i with
  | init key cv => exact exec_outcome_init key cv s
  | derive => exact exec_outcome_derive s
  | tag m => exact exec_outcome_tag m s
  | setcv value => exact exec_outcome_setcv value s
  | crc32 data => exact ⟨_, exec_crc32 data s, .answered _ (.crc32 data) (.refl _)⟩

/-- What a command leads to is one of its outcomes. -/
theorem CommandOutcome.of_exec {i : Instr} {s t : State} (h : exec i s = .next t) : CommandOutcome s i t := by
  obtain ⟨u, hu, houtcome⟩ := exec_outcome i s
  obtain rfl : u = t := by simpa [h] using hu.symm
  exact houtcome

end Sys2Proof.Machine
end

section
/-! PROOFS. Which registers and flags a command may change, by its response's status (10_state.md R37). -/

namespace Sys2Proof.Machine

/-- The last event of a raised error is its response. -/
@[simp] theorem State.getLast?_history_raise (e : CmdError) (s : State) :
    (s.raise e).history.getLast? =
      some (.response (e.status :: BitVec.ofNat 8 e.info.length :: e.info)) := by
  simp [State.raise_eq]

/-- The last event of a success is its response. -/
@[simp] theorem State.getLast?_history_respond (result : List Byte) (s : State) :
    (s.respond result).history.getLast? =
      some (.response (statusOk :: BitVec.ofNat 8 result.length :: result)) := by
  simp [State.respond_eq]

theorem answersWith_raise_iff {e : CmdError} {s : State} {st : Byte} :
    AnswersWith (.next (s.raise e)) st ↔ st = e.status := by
  simp [AnswersWith, eq_comm]

theorem answersWith_respond_iff {result : List Byte} {s : State} {st : Byte} :
    AnswersWith (.next (s.respond result)) st ↔ st = statusOk := by
  simp [AnswersWith, eq_comm]

theorem SessionUpdate.key_frame {s v : State} {i : Instr} (h : SessionUpdate s i v) (hinit : i.op ≠ .init) :
    v.key = s.key ∧ v.keyValid = s.keyValid := by
  cases h with
  | init => exact absurd rfl hinit
  | derive | tag | setcv | crc32 => exact ⟨rfl, rfl⟩

theorem SessionUpdate.subkeys_frame {s v : State} {i : Instr} (h : SessionUpdate s i v) (hinit : i.op ≠ .init)
    (hderive : i.op ≠ .derive) : v.k1 = s.k1 ∧ v.k2 = s.k2 ∧ v.subkeysValid = s.subkeysValid := by
  cases h with
  | init => exact absurd rfl hinit
  | derive => exact absurd rfl hderive
  | tag | setcv | crc32 => exact ⟨rfl, rfl, rfl⟩

theorem SessionUpdate.cv_frame {s v : State} {i : Instr} (h : SessionUpdate s i v) (hinit : i.op ≠ .init)
    (hsetcv : i.op ≠ .setcv) (htag : i.op ≠ .tag) : v.cv = s.cv := by
  cases h with
  | init => exact absurd rfl hinit
  | setcv => exact absurd rfl hsetcv
  | tag => exact absurd rfl htag
  | derive | crc32 => rfl

theorem CmdError.fatal_of_status {e : CmdError} (h : e.status = 0x01#8 ∨ e.status = 0x02#8) : e.fatal = true := by
  cases e <;> simp_all [CmdError.status, CmdError.fatal]

theorem CmdError.not_fatal_of_status {e : CmdError} (h : e.status = 0x03#8 ∨ e.status = 0x04#8) :
    e.fatal = false := by
  cases e <;> simp_all [CmdError.status, CmdError.fatal]

theorem CmdError.status_ne_ok (e : CmdError) : e.status ≠ 0x00#8 := by
  cases e <;> simp [CmdError.status]

/-- Settles O47: an error ends the session or leaves it alone, by its status, and a success is its command's row of
R37. -/
theorem registerAccessTable : Obligations.RegisterAccessTable := by
  intro i s t st hexec hanswers
  rw [hexec] at hanswers
  cases CommandOutcome.of_exec hexec with
  | @raised u e same =>
    obtain rfl := answersWith_raise_iff.mp hanswers
    refine ⟨fun hst => ?_, fun hst => ?_, fun hst => absurd hst e.status_ne_ok⟩
    · have h := u.raise_sameSession_of_fatal (CmdError.fatal_of_status hst)
      exact ⟨h.key, h.cv, h.k1, h.k2, h.keyValid, h.subkeysValid⟩
    · have h := (u.raise_sameSession_of_not_fatal (CmdError.not_fatal_of_status hst)).trans same
      exact ⟨h.key, h.cv, h.k1, h.k2, h.keyValid, h.subkeysValid⟩
  | @answered u v result update same =>
    obtain rfl := answersWith_respond_iff.mp hanswers
    have h := (u.respond_sameSession result).trans same
    refine ⟨fun hst => absurd hst (by decide), fun hst => absurd hst (by decide),
      fun _ => ⟨fun hinit => ?_, fun hinit hderive => ?_, fun hinit hsetcv htag => ?_⟩⟩
    · obtain ⟨hkey, hkeyValid⟩ := update.key_frame hinit
      exact ⟨h.key.trans hkey, h.keyValid.trans hkeyValid⟩
    · obtain ⟨hk1, hk2, hsubkeysValid⟩ := update.subkeys_frame hinit hderive
      exact ⟨h.k1.trans hk1, h.k2.trans hk2, h.subkeysValid.trans hsubkeysValid⟩
    · exact h.cv.trans (update.cv_frame hinit hsetcv htag)

end Sys2Proof.Machine
end

section
/-! PROOFS. The session invariant (10_state.md R24, R28, R29) is kept by every command, by the reset event and so by every
step. -/

namespace Sys2Proof.Machine

/-- The session invariant speaks of the session alone. -/
theorem State.SessionInv.of_sameSession {s t : State} (hs : s.SessionInv) (h : t.SameSession s) : t.SessionInv where
  subkeysNeedKey := by simpa only [h.subkeysValid, h.keyValid] using hs.subkeysNeedKey
  keyHeld := by simpa only [h.keyValid, h.key, h.cv] using hs.keyHeld
  subkeysHeld := by simpa only [h.subkeysValid, h.key, h.k1, h.k2] using hs.subkeysHeld
  noKey := by simpa only [h.keyValid, h.key] using hs.noKey
  noSubkeys := by simpa only [h.subkeysValid, h.k1, h.k2] using hs.noSubkeys

theorem State.sessionInv_endSession (s : State) : s.endSession.SessionInv := by
  constructor <;> simp

/-- A started session has a key, and neither subkeys nor their flag. -/
theorem State.sessionInv_startSession (key cv : Block) (s : State) : (s.startSession key cv).SessionInv := by
  constructor <;> simp [State.startSession]

theorem State.SessionInv.write_cv {s : State} (h : s.SessionInv) (v : Block) : (s.write .cv v).SessionInv where
  subkeysNeedKey := h.subkeysNeedKey
  keyHeld := fun hkey => ⟨(h.keyHeld hkey).left, rfl⟩
  subkeysHeld := h.subkeysHeld
  noKey := h.noKey
  noSubkeys := h.noSubkeys

/-- The subkeys written are those of the current key: what `KEY` reads as is what it holds, since `KEY_VALID` is 1. -/
theorem State.SessionInv.writeSubkeys {s : State} (h : s.SessionInv) (hkey : s.keyValid = true) :
    (s.writeSubkeys (Config.enc (s.read .key) z16 z16)).SessionInv where
  subkeysNeedKey := fun _ => hkey
  keyHeld := h.keyHeld
  subkeysHeld := fun _ => by
    obtain ⟨k, hk⟩ := Option.isSome_iff_exists.mp (h.keyHeld hkey).left
    have hread : s.read .key = k := by simp [State.read, State.reg, hk]
    rw [hread]
    exact ⟨k, hk, rfl, rfl⟩
  noKey := h.noKey
  noSubkeys := nofun

theorem SessionUpdate.sessionInv {s v : State} {i : Instr} (h : SessionUpdate s i v) (hs : s.SessionInv) :
    v.SessionInv := by
  cases h with
  | init => exact s.sessionInv_startSession ..
  | derive hkey => exact hs.writeSubkeys hkey
  | tag => exact hs.write_cv _
  | setcv => exact hs.write_cv _
  | crc32 => exact hs

theorem State.SessionInv.raise {s : State} (hs : s.SessionInv) (e : CmdError) : (s.raise e).SessionInv := by
  cases hfatal : e.fatal with
  | true => exact s.sessionInv_endSession.of_sameSession (s.raise_sameSession_of_fatal hfatal)
  | false => exact hs.of_sameSession (s.raise_sameSession_of_not_fatal hfatal)

theorem State.SessionInv.exec {i : Instr} {s t : State} (hs : s.SessionInv) (h : exec i s = .next t) :
    t.SessionInv := by
  cases CommandOutcome.of_exec h with
  | raised e same => exact (hs.of_sameSession same).raise e
  | answered result update same =>
    exact (update.sessionInv hs).of_sameSession ((State.respond_sameSession ..).trans same)

theorem State.sessionInv_applyReset (s : State) : s.applyReset.SessionInv := by
  constructor <;> simp

/-- Under the reset input a command leads where it leads without one, or to the state after the reset event. -/
theorem State.underReset_cases {s t : State} {o : Host.Outcome State Fault Refusal} (h : s.underReset o = .next t) :
    o = .next t ∨ ∃ u : State, t = u.applyReset := by
  unfold State.underReset at h
  split at h
  · obtain rfl := Host.Outcome.next.inj h
    exact .inr ⟨_, rfl⟩
  · exact .inl h

/-- A step comes to the reset event, to a wait, to an illegal frame's error or to a command's end. -/
theorem step_next_cases {s t : State} (h : step s = .next t) :
    (∃ u : State, t = u.applyReset) ∨ t = s ∨ (∃ len, t = (s.takeFrame len).raise .illegalCommand) ∨
      ∃ i len, exec i (s.takeFrame len) = .next t := by
  rcases step_cases s with ⟨taken, -, hreset⟩ | ⟨-, ⟨-, hfault⟩ | ⟨-, -, hwait⟩ | ⟨-, -, -, hfault⟩ |
    ⟨-, -, why, len, -, hillegal⟩ | ⟨-, -, i, len, -, hrun⟩⟩
  · exact .inl ⟨_, Host.Outcome.next.inj (h.symm.trans hreset)⟩
  · exact nomatch h.symm.trans hfault
  · exact .inr (.inl (Host.Outcome.next.inj (h.symm.trans hwait)))
  · exact nomatch h.symm.trans hfault
  · rcases State.underReset_cases (hillegal.symm.trans h) with hnext | hreset
    · exact .inr (.inr (.inl ⟨len, (Host.Outcome.next.inj hnext).symm⟩))
    · exact .inl hreset
  · rcases State.underReset_cases (hrun.symm.trans h) with hnext | hreset
    · exact .inr (.inr (.inr ⟨i, len, hnext⟩))
    · exact .inl hreset

theorem State.takeFrame_sameSession (len : Nat) (s : State) : (s.takeFrame len).SameSession s :=
  ⟨rfl, rfl, rfl, rfl, rfl, rfl⟩

/-- Settles O53: each thing a step can come to keeps the session invariant. -/
theorem sessionInvariantIsKeptByEveryStep : Obligations.SessionInvariantIsKeptByEveryStep := by
  intro s t hs hstep
  rcases step_next_cases hstep with ⟨u, rfl⟩ | rfl | ⟨len, rfl⟩ | ⟨i, len, hexec⟩
  · exact u.sessionInv_applyReset
  · exact hs
  · exact (hs.of_sameSession (s.takeFrame_sameSession len)).raise .illegalCommand
  · exact (hs.of_sameSession (s.takeFrame_sameSession len)).exec hexec

end Sys2Proof.Machine
end

section
/-! PROOFS. The state after reset (10_state.md R28, R36), and the reset event (70_reset_and_hazards.md R250). -/

namespace Sys2Proof.Machine

/-- After reset, on any cipher port, all that is true between the commands of an empty session is. -/
theorem State.reset_invariants (port : Nat) :
    ({ State.reset with cipherPort := port } : State).SessionInv ∧
      ({ State.reset with cipherPort := port } : State).Quiet ∧
      HistoryComplete ({ State.reset with cipherPort := port } : State).history :=
  ⟨⟨nofun, nofun, nofun, fun _ => rfl, fun _ => ⟨rfl, rfl⟩⟩, ⟨rfl, rfl, rfl, rfl, rfl, rfl, rfl⟩, rfl⟩

/-- Settles O52: a session of the system after reset is `State.reset` on a cipher port of its own. -/
theorem invariantsHoldAfterReset : Obligations.InvariantsHoldAfterReset := by
  refine ⟨State.reset_invariants 0, fun s hs => ?_⟩
  obtain ⟨port, -, rfl⟩ := List.mem_map.mp hs
  exact State.reset_invariants port

theorem State.quiet_applyReset (s : State) : s.applyReset.Quiet := ⟨rfl, rfl, rfl, rfl, rfl, rfl, rfl⟩

theorem step_of_resetIn_beforeCommand {s : State} {taken : Nat} (h : s.resetIn = .beforeCommand taken) :
    step s = .next (s.resetInFrame taken) := by
  unfold step fetch
  rw [h]

/-- A block between two commands waits where nothing is offered. -/
theorem step_of_nothing_offered {s : State} (hready : s.ready = true) (hreset : s.resetIn = .released)
    (hcmd : s.cmdIn = []) : step s = .next s := by
  simp [step, fetch, fetchFrame, hready, hreset, hcmd]

theorem State.frameRoom_of_not_ready {s : State} (h : s.ready = false) : s.frameRoom = 0 := by
  simp [State.frameRoom, h]

theorem State.frameRoom_of_instr {s : State} {i : Instr} {len : Nat} (h : s.ready = true)
    (hdecode : decode s.cmdIn = .instr i len) : s.frameRoom = len - 1 := by
  simp [State.frameRoom, h, hdecode]

theorem State.frameRoom_of_illegal {s : State} {why : Illegal} {len : Nat} (h : s.ready = true)
    (hdecode : decode s.cmdIn = .illegal why len) : s.frameRoom = len - 1 := by
  simp [State.frameRoom, h, hdecode]

theorem State.frameRoom_of_incomplete {s : State} {where_ : Incomplete} (h : s.ready = true)
    (hdecode : decode s.cmdIn = .incomplete where_) : s.frameRoom = s.cmdIn.length := by
  simp [State.frameRoom, h, hdecode]

/-- Settles O43: the step is the reset event, and how much of the frame it takes away is `frameRoom` by the cases of the
decoding. -/
theorem resetEventGivesTheResetTable : Obligations.ResetEventGivesTheResetTable := by
  intro s taken hreset
  have hquiet : (s.resetInFrame taken).Quiet := State.quiet_applyReset _
  have hcmd : (s.resetInFrame taken).cmdIn = s.cmdIn.drop (min taken s.frameRoom) := rfl
  refine ⟨_, step_of_resetIn_beforeCommand hreset, hquiet, rfl, rfl, rfl, rfl, rfl, rfl, rfl, rfl, hcmd,
    fun hready => ?_, fun hready i len hdecode => ?_, fun hready why len hdecode => ?_,
    fun hready where_ hdecode => ?_, step_of_nothing_offered (State.ready_of_quiet hquiet) rfl⟩
  · rw [hcmd, State.frameRoom_of_not_ready hready, Nat.min_zero, List.drop_zero]
  · rw [hcmd, State.frameRoom_of_instr hready hdecode]
  · rw [hcmd, State.frameRoom_of_illegal hready hdecode]
  · rw [hcmd, State.frameRoom_of_incomplete hready hdecode, List.drop_eq_drop_iff]
    omega

end Sys2Proof.Machine
end

section
/-! PROOFS. What the responses do not tell (10_state.md R38). -/

namespace Sys2Proof.Machine

/-- Two commands that raise the same error give the same response. -/
theorem getLast?_history_eq_of_raise {o o' : Host.Outcome State Fault Refusal} {e : CmdError} {u u' t t' : State}
    (ho : o = .next (u.raise e)) (ho' : o' = .next (u'.raise e)) (h : o = .next t) (h' : o' = .next t') :
    t.history.getLast? = t'.history.getLast? := by
  obtain rfl := Host.Outcome.next.inj (ho.symm.trans h)
  obtain rfl := Host.Outcome.next.inj (ho'.symm.trans h')
  rw [State.getLast?_history_raise, State.getLast?_history_raise]

/-- Two commands that answer the same result give the same response. -/
theorem getLast?_history_eq_of_respond {o o' : Host.Outcome State Fault Refusal} {result : List Byte}
    {u u' t t' : State} (ho : o = .next (u.respond result)) (ho' : o' = .next (u'.respond result))
    (h : o = .next t) (h' : o' = .next t') : t.history.getLast? = t'.history.getLast? := by
  obtain rfl := Host.Outcome.next.inj (ho.symm.trans h)
  obtain rfl := Host.Outcome.next.inj (ho'.symm.trans h')
  rw [State.getLast?_history_respond, State.getLast?_history_respond]

/-- Settles O51: which error a command other than `TAG` raises, or which result it answers, is settled by its operands,
`KEY_VALID` and the next decision. -/
theorem responsesDoNotRevealTheRegisters : Obligations.ResponsesDoNotRevealTheRegisters := by
  intro i s s' t t' htag hkeyValid hdraws
  cases i with
  | init key cv =>
    by_cases hkey : key.length = 16
    · by_cases hcv : cv.length = 16
      · exact getLast?_history_eq_of_respond (exec_init_of_length_eq hkey hcv s) (exec_init_of_length_eq hkey hcv s')
      · exact getLast?_history_eq_of_raise (exec_init_of_cv_length_ne hkey hcv s)
          (exec_init_of_cv_length_ne hkey hcv s')
    · exact getLast?_history_eq_of_raise (exec_init_of_key_length_ne hkey cv s)
        (exec_init_of_key_length_ne hkey cv s')
  | derive =>
    cases hkey : s.keyValid with
    | false =>
      exact getLast?_history_eq_of_raise (exec_derive_of_no_key hkey)
        (exec_derive_of_no_key (hkeyValid.symm.trans hkey))
    | true =>
      cases hdraw : s.drawAt 0 with
      | succeeds =>
        exact getLast?_history_eq_of_respond (exec_derive_of_success hkey hdraw)
          (exec_derive_of_success (hkeyValid.symm.trans hkey) (hdraws.symm.trans hdraw))
      | fails e =>
        exact getLast?_history_eq_of_raise (exec_derive_of_failure hkey hdraw)
          (exec_derive_of_failure (hkeyValid.symm.trans hkey) (hdraws.symm.trans hdraw))
  | tag m => exact absurd rfl htag
  | setcv value =>
    by_cases hvalue : value.length = 16
    · exact getLast?_history_eq_of_respond (exec_setcv_of_length_eq hvalue s) (exec_setcv_of_length_eq hvalue s')
    · exact getLast?_history_eq_of_raise (exec_setcv_of_length_ne hvalue s) (exec_setcv_of_length_ne hvalue s')
  | crc32 data => exact getLast?_history_eq_of_respond (exec_crc32 data s) (exec_crc32 data s')

end Sys2Proof.Machine
end

section
/-! PROOFS. The sessions of a system share nothing (10_state.md R39). -/

namespace Sys2Proof.Machine

/-- A step of one session of a system is a step of its own state, put back in its place. -/
theorem System.stepInstance_next_iff {n : Nat} {sys sys' : System} :
    sys.stepInstance n = .next sys' ↔
      ∃ s t, sys.sessions[n]? = some s ∧ step s = .next t ∧ sys' = ⟨sys.sessions.set n t⟩ := by
  unfold System.stepInstance
  cases hs : sys.sessions[n]? with
  | none => simp
  | some s => cases ht : step s <;> simp [ht, eq_comm]

/-- Settles O56: the other places of the list are as before. -/
theorem instancesShareNothing : Obligations.InstancesShareNothing := by
  intro n sys sys' hstep
  obtain ⟨s, t, hs, ht, rfl⟩ := System.stepInstance_next_iff.mp hstep
  have hn : n < sys.sessions.length := (List.getElem?_eq_some_iff.mp hs).choose
  exact ⟨⟨s, t, hs, ht, List.getElem?_set_self hn⟩, fun m hm => List.getElem?_set_ne hm.symm, List.length_set⟩

end Sys2Proof.Machine
end

section
/-! PROOFS. What a command does at the ports (20_memory.md R62 to R70): the events of its cipher port, said once per
command, and the one response after them. -/

namespace Sys2Proof.Machine

/-- `es` are cipher exchanges under `key`: requests with a zero IV, each with its answer before the next, and none after a
failure (20_memory.md R64, R67, R69). -/
inductive CipherExchanges (key : Block) : List Event → Prop
  | done : CipherExchanges key []
  | succeeded {es : List Event} (p c : Block) (rest : CipherExchanges key es) :
      CipherExchanges key (.request ⟨key, z16, p⟩ :: .answer (.ok c) :: es)
  | failed (p : Block) (e : Byte) : CipherExchanges key [.request ⟨key, z16, p⟩, .answer (.fail e)]

/-- The exchanges of a chaining pass, and cipher exchanges after them, are cipher exchanges. -/
theorem CipherExchanges.exchanges_append {key : Block} {es : List Event} (h : CipherExchanges key es) (enc : Cipher)
    (bs : List Block) : ∀ w, CipherExchanges key (exchanges enc key w bs ++ es) := by
  induction bs with
  | nil => intro w; exact h
  | cons b bs ih => intro w; exact .succeeded _ _ (ih _)

theorem CipherExchanges.responses_eq_nil {key : Block} {es : List Event} (h : CipherExchanges key es) :
    responses es = [] := by
  induction h with
  | done | failed => rfl
  | succeeded p c rest ih => exact ih

theorem CipherExchanges.request_key_iv {key : Block} {es : List Event} (h : CipherExchanges key es) :
    ∀ q ∈ requests es, q.key = key ∧ q.iv = z16 := by
  induction h with
  | done => exact nofun
  | succeeded p c rest ih => exact List.forall_mem_cons.mpr ⟨⟨rfl, rfl⟩, ih⟩
  | failed p e => exact List.forall_mem_singleton.mpr ⟨rfl, rfl⟩

/-- A chaining pass makes one request per block (42_tag_computation.md R165). -/
@[simp] theorem length_requests_exchanges (enc : Cipher) (key : Block) (bs : List Block) :
    ∀ w, (requests (exchanges enc key w bs)).length = bs.length := by
  induction bs with
  | nil => intro w; rfl
  | cons b bs ih => intro w; exact congrArg Nat.succ (ih _)

/-- The events of the cipher port while a command executes from `s` and is answered with status `st` (20_memory.md R70). -/
inductive CommandEvents (s : State) : Instr → Byte → List Event → Prop
  | noCipher {i : Instr} (st : Byte) (hderive : i.op ≠ .derive) (htag : i.op ≠ .tag) : CommandEvents s i st []
  | deriveNoKey (hkey : s.keyValid = false) : CommandEvents s .derive (CmdError.status .invalidKeyLength) []
  | derive (hkey : s.keyValid = true) (c : Block) :
      CommandEvents s .derive statusOk [.request ⟨s.read .key, z16, z16⟩, .answer (.ok c)]
  | deriveFailed (hkey : s.keyValid = true) (e : Byte) :
      CommandEvents s .derive (CmdError.status (.cipherPrimitiveFailure e))
        [.request ⟨s.read .key, z16, z16⟩, .answer (.fail e)]
  | tagNoSubkeys (m : List Byte) : CommandEvents s (.tag m) (CmdError.status .uninitializedSubkeys) []
  | tag (hsub : s.subkeysValid = true) (m : List Byte) :
      CommandEvents s (.tag m) statusOk (exchanges Config.enc (s.read .key) (s.read .cv) (s.tagBlocks m))
  | tagFailed (hsub : s.subkeysValid = true) (m : List Byte) {j : Nat} (hj : j < numberOfBlocks m.length) (p : Block)
      (e : Byte) :
      CommandEvents s (.tag m) (CmdError.status (.cipherPrimitiveFailure e))
        (exchanges Config.enc (s.read .key) (s.read .cv) ((s.tagBlocks m).take j) ++
          [.request ⟨s.read .key, z16, p⟩, .answer (.fail e)])

theorem CommandEvents.cipherExchanges {s : State} {i : Instr} {st : Byte} {es : List Event}
    (h : CommandEvents s i st es) : CipherExchanges (s.read .key) es := by
  cases h with
  | noCipher | deriveNoKey | tagNoSubkeys => exact .done
  | derive hkey c => exact .succeeded _ c .done
  | deriveFailed hkey e => exact .failed _ e
  | tag hsub m => simpa using CipherExchanges.done.exchanges_append Config.enc (s.tagBlocks m) (s.read .cv)
  | tagFailed hsub m hj p e => exact (CipherExchanges.failed p e).exchanges_append ..

/-- The request of a `DERIVE` (20_memory.md R70). -/
theorem CommandEvents.requests_derive {s : State} {st : Byte} {es : List Event} (h : CommandEvents s .derive st es) :
    requests es = if s.keyValid then [⟨s.read .key, z16, z16⟩] else [] := by
  cases h with
  | noCipher st hderive htag => exact absurd rfl hderive
  | deriveNoKey hkey | derive hkey | deriveFailed hkey => rw [hkey]; rfl

/-- The number of requests of a `TAG` (20_memory.md R69, R70). -/
theorem CommandEvents.length_requests_tag {s : State} {m : List Byte} {st : Byte} {es : List Event}
    (h : CommandEvents s (.tag m) st es) :
    (requests es).length ≤ (if s.subkeysValid then numberOfBlocks m.length else 0) ∧
      (st = statusOk → (requests es).length = numberOfBlocks m.length) := by
  cases h with
  | noCipher st hderive htag => exact absurd rfl htag
  | tagNoSubkeys => exact ⟨Nat.zero_le _, fun hok => absurd hok (CmdError.status_ne_ok _)⟩
  | tag hsub => simp [hsub]
  | tagFailed hsub m hj p e =>
    refine ⟨?_, fun hok => absurd hok (CmdError.status_ne_ok _)⟩
    simp only [hsub, if_true, requests_append, List.length_append, length_requests_exchanges, List.length_take,
      requests, List.length_cons, List.length_nil]
    omega

theorem CommandEvents.requests_of_noCipher {s : State} {i : Instr} {st : Byte} {es : List Event}
    (h : CommandEvents s i st es) (hderive : i.op ≠ .derive) (htag : i.op ≠ .tag) : requests es = [] := by
  cases h with
  | noCipher => rfl
  | deriveNoKey | derive | deriveFailed => exact absurd rfl hderive
  | tagNoSubkeys | tag | tagFailed => exact absurd rfl htag

/-- The ports of `u` are those of `s` after the events `es`, of which none takes bytes from the command port. -/
structure State.PortsAfter (s : State) (es : List Event) (u : State) : Prop where
  history : u.history = s.history ++ es
  drawIndex : u.drawIndex = s.drawIndex + (requests es).length
  cmdIn : u.cmdIn = s.cmdIn
  resetIn : u.resetIn = s.resetIn
  cipherPort : u.cipherPort = s.cipherPort

theorem State.PortsAfter.refl (s : State) : s.PortsAfter [] s := ⟨(List.append_nil _).symm, rfl, rfl, rfl, rfl⟩

theorem State.portsAfter_startSession (key cv : Block) (s : State) : s.PortsAfter [] (s.startSession key cv) :=
  ⟨(List.append_nil _).symm, rfl, rfl, rfl, rfl⟩

theorem State.portsAfter_exchanged {es : List Event} {n : Nat} (h : (requests es).length = n) (s : State) :
    s.PortsAfter es (s.exchanged n es) := ⟨rfl, by rw [h]; rfl, rfl, rfl, rfl⟩

theorem State.portsAfter_exchangeBase (a : CipherAnswer) (s : State) :
    s.PortsAfter [.request ⟨s.read .key, z16, z16⟩, .answer a] (s.exchangeBase a) :=
  ⟨List.append_assoc .., rfl, rfl, rfl, rfl⟩

section
variable {s u : State} {es : List Event} (h : s.PortsAfter es u)
include h

theorem State.PortsAfter.write_cv (v : Block) : s.PortsAfter es (u.write .cv v) :=
  ⟨h.history, h.drawIndex, h.cmdIn, h.resetIn, h.cipherPort⟩

theorem State.PortsAfter.writeSubkeys (base : Block) : s.PortsAfter es (u.writeSubkeys base) :=
  ⟨h.history, h.drawIndex, h.cmdIn, h.resetIn, h.cipherPort⟩

theorem State.PortsAfter.respond (result : List Byte) :
    s.PortsAfter (es ++ [.response (Response.bytes ⟨statusOk, result⟩)]) (u.respond result) where
  history := by rw [← List.append_assoc, ← h.history]; rfl
  drawIndex := h.drawIndex.trans (by simp [requests])
  cmdIn := h.cmdIn
  resetIn := h.resetIn
  cipherPort := h.cipherPort

theorem State.PortsAfter.raise (e : CmdError) :
    s.PortsAfter (es ++ [.response (Response.bytes ⟨e.status, e.info⟩)]) (u.raise e) := by
  have hfields : (u.raise e).drawIndex = u.drawIndex ∧ (u.raise e).cmdIn = u.cmdIn ∧
      (u.raise e).resetIn = u.resetIn ∧ (u.raise e).cipherPort = u.cipherPort := by
    rw [State.raise_eq]
    split <;> exact ⟨rfl, rfl, rfl, rfl⟩
  obtain ⟨hdrawIndex, hcmdIn, hresetIn, hcipherPort⟩ := hfields
  refine ⟨?_, (hdrawIndex.trans h.drawIndex).trans (by simp [requests]), hcmdIn.trans h.cmdIn,
    hresetIn.trans h.resetIn, hcipherPort.trans h.cipherPort⟩
  rw [State.raise_eq, ← List.append_assoc, ← h.history]
  rfl

end

theorem State.quiet_respond (result : List Byte) (s : State) : (s.respond result).Quiet :=
  ⟨rfl, rfl, rfl, rfl, rfl, rfl, rfl⟩

theorem State.quiet_raise (e : CmdError) (s : State) : (s.raise e).Quiet := by
  rw [State.raise_eq]
  split <;> exact ⟨rfl, rfl, rfl, rfl, rfl, rfl, rfl⟩

/-- An error's response is a row of the table (30_encoding.md R98). -/
theorem CmdError.legalResponse (e : CmdError) : LegalResponse (Response.bytes ⟨e.status, e.info⟩) := by
  cases e with
  | invalidKeyLength => exact .invalidKeyLength
  | invalidChainingValueLength => exact .invalidChainingValueLength
  | uninitializedSubkeys => exact .uninitializedSubkeys
  | cipherPrimitiveFailure e => exact .cipherPrimitiveFailure e
  | illegalCommand => exact .illegalCommand

theorem legalResponse_first8 (v : Block) : LegalResponse (Response.bytes ⟨statusOk, Block.first8 v⟩) := by
  rw [Response.bytes, Block.length_first8]
  exact .okTag _ (Block.length_first8 v)

/-- The command `i` leads from `s` to `t` with the events `es` at its cipher port and then the one response `r`. -/
structure CommandAnswered (s : State) (i : Instr) (es : List Event) (r : Response) (t : State) : Prop where
  events : CommandEvents s i r.status es
  ports : s.PortsAfter (es ++ [.response r.bytes]) t
  legal : LegalResponse r.bytes
  quiet : t.Quiet

theorem CommandEvents.raise {s u : State} {i : Instr} {es : List Event} {e : CmdError}
    (h : CommandEvents s i e.status es) (hports : s.PortsAfter es u) :
    CommandAnswered s i es ⟨e.status, e.info⟩ (u.raise e) :=
  ⟨h, hports.raise e, e.legalResponse, u.quiet_raise e⟩

theorem CommandEvents.respond {s u : State} {i : Instr} {es : List Event} {result : List Byte}
    (h : CommandEvents s i statusOk es) (hlegal : LegalResponse (Response.bytes ⟨statusOk, result⟩))
    (hports : s.PortsAfter es u) : CommandAnswered s i es ⟨statusOk, result⟩ (u.respond result) :=
  ⟨h, hports.respond result, hlegal, u.quiet_respond result⟩

theorem exec_answered_init (key cv : List Byte) (s : State) :
    ∃ es r t, exec (.init key cv) s = .next t ∧ CommandAnswered s (.init key cv) es r t := by
  have hevents (st : Byte) : CommandEvents s (.init key cv) st [] := .noCipher st nofun nofun
  by_cases hkey : key.length = 16
  · by_cases hcv : cv.length = 16
    · exact ⟨_, _, _, exec_init_of_length_eq hkey hcv s, (hevents _).respond .okEmpty (s.portsAfter_startSession ..)⟩
    · exact ⟨_, _, _, exec_init_of_cv_length_ne hkey hcv s, (hevents _).raise (.refl s)⟩
  · exact ⟨_, _, _, exec_init_of_key_length_ne hkey cv s, (hevents _).raise (.refl s)⟩

theorem exec_answered_setcv (value : List Byte) (s : State) :
    ∃ es r t, exec (.setcv value) s = .next t ∧ CommandAnswered s (.setcv value) es r t := by
  have hevents (st : Byte) : CommandEvents s (.setcv value) st [] := .noCipher st nofun nofun
  by_cases hvalue : value.length = 16
  · exact ⟨_, _, _, exec_setcv_of_length_eq hvalue s,
      (hevents _).respond .okEmpty ((State.PortsAfter.refl s).write_cv _)⟩
  · exact ⟨_, _, _, exec_setcv_of_length_ne hvalue s, (hevents _).raise (.refl s)⟩

theorem exec_answered_derive (s : State) :
    ∃ es r t, exec .derive s = .next t ∧ CommandAnswered s .derive es r t := by
  cases hkey : s.keyValid with
  | false => exact ⟨_, _, _, exec_derive_of_no_key hkey, (CommandEvents.deriveNoKey hkey).raise (.refl s)⟩
  | true =>
    cases hdraw : s.drawAt 0 with
    | succeeds =>
      exact ⟨_, _, _, exec_derive_of_success hkey hdraw,
        (CommandEvents.derive hkey _).respond .okEmpty ((s.portsAfter_exchangeBase _).writeSubkeys _)⟩
    | fails e =>
      exact ⟨_, _, _, exec_derive_of_failure hkey hdraw,
        (CommandEvents.deriveFailed hkey e).raise (s.portsAfter_exchangeBase _)⟩

theorem exec_answered_tag (m : List Byte) (s : State) :
    ∃ es r t, exec (.tag m) s = .next t ∧ CommandAnswered s (.tag m) es r t := by
  cases hsub : s.subkeysValid with
  | false => exact ⟨_, _, _, exec_tag_of_no_subkeys hsub m, (CommandEvents.tagNoSubkeys m).raise (.refl s)⟩
  | true =>
    rcases s.draws_succeed_or_first_failure (s.tagBlocks m).length with hall | ⟨j, e, hj, hdraws, hfail⟩
    · rw [State.length_tagBlocks] at hall
      exact ⟨_, _, _, exec_tag_of_success hsub hall, (CommandEvents.tag hsub m).respond (legalResponse_first8 _)
        ((s.portsAfter_exchanged (by simp)).write_cv _)⟩
    · have hcount : min j (s.tagBlocks m).length = j := Nat.min_eq_left hj.le
      exact ⟨_, _, _, exec_tag_of_first_failure hsub hj hdraws hfail,
        (CommandEvents.tagFailed hsub m (by simpa using hj) _ e).raise
          (s.portsAfter_exchanged (by simpa [requests] using hcount))⟩

/-- Every command, in every state, is answered once, after the events of its cipher port. -/
theorem exec_answered (i : Instr) (s : State) :
    ∃ es r t, exec i s = .next t ∧ CommandAnswered s i es r t := by
  cases i with
  | init key cv => exact exec_answered_init key cv s
  | derive => exact exec_answered_derive s
  | tag m => exact exec_answered_tag m s
  | setcv value => exact exec_answered_setcv value s
  | crc32 data =>
    have hevents : CommandEvents s (.crc32 data) statusOk [] := .noCipher _ nofun nofun
    exact ⟨_, _, _, exec_crc32 data s, hevents.respond (.okChecksum _ rfl) (.refl s)⟩

/-- Settles O45: a command's events at its cipher port hold no response, and one follows them. -/
theorem everyCommandIsAnsweredOnce : Obligations.EveryCommandIsAnsweredOnce := by
  intro i s
  obtain ⟨es, r, t, hexec, h⟩ := exec_answered i s
  exact ⟨t, es, r.bytes, hexec, by rw [h.ports.history, List.append_assoc],
    h.events.cipherExchanges.responses_eq_nil, h.legal, h.quiet, h.ports.cmdIn, h.ports.resetIn, h.ports.cipherPort⟩

/-- A command answers with the status of its one response. -/
theorem CommandAnswered.status_eq {s t : State} {i : Instr} {es : List Event} {r : Response} {st : Byte}
    (h : CommandAnswered s i es r t) (hanswers : AnswersWith (.next t) st) : r.status = st := by
  obtain ⟨_, body, ht, hlast⟩ := hanswers
  obtain rfl := Host.Outcome.next.inj ht
  rw [h.ports.history, ← List.append_assoc, List.getLast?_concat] at hlast
  exact (List.cons.inj (Event.response.inj (Option.some.inj hlast))).left

/-- Settles O46: the requests are those of the command's events at its cipher port, which are exchanges under `KEY`. -/
theorem requestsCarryTheKeyAndAZeroIv : Obligations.RequestsCarryTheKeyAndAZeroIv := by
  intro i s t hexec
  obtain ⟨es, r, u, hu, h⟩ := exec_answered i s
  obtain rfl := Host.Outcome.next.inj (hu.symm.trans hexec)
  refine ⟨requests es, by simp [h.ports.history, requests], by simp [h.ports.drawIndex, requests],
    h.events.cipherExchanges.request_key_iv, ?_, ?_, ?_, ?_, ?_⟩
  · rintro key cv rfl
    exact h.events.requests_of_noCipher nofun nofun
  · rintro value rfl
    exact h.events.requests_of_noCipher nofun nofun
  · rintro data rfl
    exact h.events.requests_of_noCipher nofun nofun
  · rintro rfl
    exact h.events.requests_derive
  · rintro m rfl
    obtain ⟨hle, hok⟩ := h.events.length_requests_tag
    exact ⟨hle, fun hanswers => hok (h.status_eq (hexec ▸ hanswers))⟩

end Sys2Proof.Machine
end

section
/-! PROOFS. The event history stays a sequence of complete exchanges (20_memory.md R62, R63, R67, R69, R70), whatever
the step, with a reset event inside a command (70_reset_and_hazards.md R250) or without one. -/

namespace Sys2Proof.Machine

/-- After a reset no command is in execution. -/
@[simp] theorem Observer.see_reset (o : Observer) : o.see .reset = some .between := by
  cases o <;> rfl

/-- Cipher exchanges leave the observer of a running command where a response may follow. -/
theorem CipherExchanges.seeAll_response {key : Block} {es : List Event} (h : CipherExchanges key es)
    (r : List Byte) : Observer.seeAll .running (es ++ [.response r]) = some .between := by
  induction h with
  | done | failed => rfl
  | succeeded p c rest ih => exact ih

/-- So does a reset after any part of them. -/
theorem CipherExchanges.seeAll_take_reset {key : Block} {es : List Event} (h : CipherExchanges key es) :
    ∀ n, Observer.seeAll .running (es.take n ++ [.reset]) = some .between := by
  induction h with
  | done => intro n; rw [List.take_nil]; rfl
  | succeeded p c rest ih =>
    rintro (_ | _ | n)
    · rfl
    · rfl
    · exact ih n
  | failed p e =>
    rintro (_ | _ | n)
    · rfl
    · rfl
    · rw [List.take_of_length_le (by simp)]
      rfl

/-- A history in which a command has been taken is completed by events that bring its observer between commands. -/
theorem historyComplete_append {h es : List Event} (hrunning : Observer.seeAll .between h = some .running)
    (hes : Observer.seeAll .running es = some .between) : HistoryComplete (h ++ es) := by
  rw [HistoryComplete, Observer.seeAll_append, hrunning]
  exact hes

/-- Taking a frame after complete exchanges leaves a command running. -/
theorem HistoryComplete.running_takeFrame {s : State} (h : HistoryComplete s.history) (len : Nat) :
    Observer.seeAll .between (s.takeFrame len).history = some .running := by
  have hhistory : (s.takeFrame len).history = s.history ++ [.command (s.cmdIn.take len)] := rfl
  rw [hhistory, Observer.seeAll_append, h]
  rfl

theorem HistoryComplete.applyReset {s : State} (h : HistoryComplete s.history) :
    HistoryComplete s.applyReset.history := by
  have hhistory : s.applyReset.history = s.history ++ [.reset] := rfl
  rw [hhistory, HistoryComplete, Observer.seeAll_append, h]
  rfl

/-- Under the reset input a command leads where it leads without one, or is abandoned. -/
theorem State.underReset_next {s u t : State} (h : s.underReset (.next u) = .next t) :
    t = u ∨ ∃ n, t = s.abandon n u := by
  unfold State.underReset at h
  split at h
  · rename_i n v _ hv
    obtain rfl := Host.Outcome.next.inj hv
    exact .inr ⟨n, (Host.Outcome.next.inj h).symm⟩
  · exact .inl (Host.Outcome.next.inj h).symm

/-- A frame that has been taken is answered after its cipher exchanges, or abandoned at a reset: either completes the
history. -/
theorem State.PortsAfter.complete_underReset {s u t : State} {key : Block} {es : List Event} {r : List Byte}
    (hports : s.PortsAfter (es ++ [.response r]) u) (hquiet : u.Quiet) (hes : CipherExchanges key es)
    (hrunning : Observer.seeAll .between s.history = some .running) (h : s.underReset (.next u) = .next t) :
    t.Quiet ∧ HistoryComplete t.history := by
  rcases State.underReset_next h with rfl | ⟨n, rfl⟩
  · refine ⟨hquiet, ?_⟩
    rw [hports.history]
    exact historyComplete_append hrunning (hes.seeAll_response r)
  · refine ⟨State.quiet_applyReset _, ?_⟩
    rw [State.abandon_history n (hports.history.trans (List.append_assoc ..).symm), List.append_assoc]
    exact historyComplete_append hrunning (hes.seeAll_take_reset n)

/-- Settles O54: a step is a reset event, a wait, or one frame taken and then answered or abandoned. -/
theorem historyStaysCompleteUnderEveryStep : Obligations.HistoryStaysCompleteUnderEveryStep := by
  intro s t hquiet hcomplete hstep
  rcases step_cases s with ⟨taken, -, hreset⟩ | ⟨-, ⟨-, hfault⟩ | ⟨-, -, hwait⟩ | ⟨-, -, -, hfault⟩ |
    ⟨-, -, why, len, -, hillegal⟩ | ⟨-, -, i, len, -, hrun⟩⟩
  · obtain rfl := Host.Outcome.next.inj (hreset.symm.trans hstep)
    exact ⟨State.quiet_applyReset _, HistoryComplete.applyReset hcomplete⟩
  · exact nomatch hfault.symm.trans hstep
  · obtain rfl := Host.Outcome.next.inj (hwait.symm.trans hstep)
    exact ⟨hquiet, hcomplete⟩
  · exact nomatch hfault.symm.trans hstep
  · have hports := (State.PortsAfter.refl (s.takeFrame len)).raise .illegalCommand
    exact hports.complete_underReset (State.quiet_raise ..) (.done (key := z16)) (hcomplete.running_takeFrame len)
      (hillegal.symm.trans hstep)
  · obtain ⟨es, r, u, hexec, h⟩ := exec_answered i (s.takeFrame len)
    rw [hexec] at hrun
    exact h.ports.complete_underReset h.quiet h.events.cipherExchanges (hcomplete.running_takeFrame len)
      (hrun.symm.trans hstep)

end Sys2Proof.Machine
end

section
/-! PROOFS. A well-formed command's frame decodes to it (30_encoding.md R90 to R95). -/

namespace Sys2Proof

/-- A well-formed command's operand lengths fit their fields (30_encoding.md R91). -/
theorem Instr.wellFormed_iff (i : Instr) : i.wellFormed = true ↔
    i.operandA.length ≤ Config.maxLen ∧ i.operandB.length ≤ Config.maxLen := by
  cases i <;> simp [Instr.wellFormed, lengthFits, Instr.operandA, Instr.operandB]

/-- A command is put together from its opcode and operands. -/
@[simp] theorem assemble_op_operands (i : Instr) : assemble i.op i.operandA i.operandB = i := by
  cases i <;> rfl

/-- A command's own header decodes to its row of the opcode map (30_encoding.md R92). -/
theorem decodeHeader_op_lengths (i : Instr) :
    decodeHeader ⟨i.op.code, i.operandA.length, i.operandB.length⟩ = .legal i.op := by
  cases i with
  | init key cv => exact Laws.HeaderDecodes.init key cv
  | derive => exact Laws.HeaderDecodes.derive
  | tag message => exact Laws.HeaderDecodes.tag message
  | setcv value => exact Laws.HeaderDecodes.setcv value
  | crc32 data => exact Laws.HeaderDecodes.crc32 data

theorem length_encode (i : Instr) : (encode i).length = 9 + i.operandA.length + i.operandB.length := by
  simp [encode, Nat.add_assoc]

/-- The header of a well-formed command's frame, read back, holds the operands' own lengths. -/
theorem parseHeader_encode_of_wellFormed {i : Instr} (h : i.wellFormed = true) (rest : List Byte) :
    parseHeader (encode i ++ rest) =
      some (⟨i.op.code, i.operandA.length, i.operandB.length⟩, i.operandA ++ (i.operandB ++ rest)) := by
  obtain ⟨hA, hB⟩ := i.wellFormed_iff.mp h
  have hmax : Config.maxLen < 2 ^ 32 := by decide
  rw [parseHeader_encode, Nat.mod_eq_of_lt (hA.trans_lt hmax), Nat.mod_eq_of_lt (hB.trans_lt hmax)]

/-- A well-formed command's frame decodes to that command and its length, whatever follows it. -/
theorem decode_encode_append {i : Instr} (h : i.wellFormed = true) (rest : List Byte) :
    decode (encode i ++ rest) = .instr i (9 + i.operandA.length + i.operandB.length) := by
  rw [decode_of_parseHeader (parseHeader_encode_of_wellFormed h rest), decodeBody, if_neg (by simp),
    decodeHeader_op_lengths]
  simp

end Sys2Proof
end

section
/-! PROOFS. The step runs the command offered at the command port (10_state.md R33, 20_memory.md R61, R63). -/

namespace Sys2Proof.Machine

/-- Nothing offered is no frame. -/
theorem ne_nil_of_decode_instr {bytes : List Byte} {i : Instr} {len : Nat} (h : decode bytes = .instr i len) :
    bytes ≠ [] := by
  rintro rfl
  exact nomatch h

/-- Settles O40: an idle block fetches what its bytes decode to, and no reset stands in the command's way. -/
theorem stepRunsTheDecodedCommand : Obligations.StepRunsTheDecodedCommand := by
  intro s i len hreset hready hdecode
  have hfetch : fetch s = .run i (s.takeFrame len) := by
    rw [fetch_of_no_reset (by simp [hreset]), fetchFrame_of_ready hready (ne_nil_of_decode_instr hdecode), hdecode]
  have hstep : step s = (s.takeFrame len).underReset (exec i (s.takeFrame len)) := by rw [step, hfetch]
  rw [hstep, State.underReset_of_no_reset (by simp [hreset]),
    State.takeFrame_eq s len (nine_le_of_decode_instr hdecode)]

/-- Settles O41: the frame offered decodes to the command, which the step then runs. -/
theorem stepExecutesAnOfferedFrame : Obligations.StepExecutesAnOfferedFrame := by
  intro s i rest hquiet hreset hempty hwell
  have hcmd : (s.offer (encode i ++ rest)).cmdIn = encode i ++ rest := by simp [hempty]
  have hdecode : decode (s.offer (encode i ++ rest)).cmdIn = .instr i (encode i).length := by
    rw [hcmd, decode_encode_append hwell, length_encode]
  have hready : (s.offer (encode i ++ rest)).ready = true := (State.ready_of_quiet hquiet : s.ready = true)
  rw [stepRunsTheDecodedCommand (s.offer (encode i ++ rest)) i _ hreset hready hdecode, hcmd, List.drop_left,
    List.take_left]
  rfl

end Sys2Proof.Machine
end

section
/-! PROOFS. Steps of two sessions commute (20_memory.md R73). -/

namespace Sys2Proof.Machine

/-- Settles O57: each step reads and writes its own place of the list alone. -/
theorem stepsOfTwoInstancesCommute : Obligations.StepsOfTwoInstancesCommute := by
  intro n m sys sysN sysNM hnm hn hm
  obtain ⟨s, s', hs, hstep, rfl⟩ := System.stepInstance_next_iff.mp hn
  obtain ⟨t, t', ht, htstep, rfl⟩ := System.stepInstance_next_iff.mp hm
  rw [List.getElem?_set_ne hnm] at ht
  refine ⟨⟨sys.sessions.set m t'⟩, System.stepInstance_next_iff.mpr ⟨t, t', ht, htstep, rfl⟩,
    System.stepInstance_next_iff.mpr ⟨s, s', ?_, hstep, ?_⟩⟩
  · rw [List.getElem?_set_ne hnm.symm, hs]
  · rw [List.set_comm _ _ hnm]

end Sys2Proof.Machine
end

section
/-! PROOFS. The opcode map (30_encoding.md R92 to R94): which headers decode to which command, on the header's fields and
on its 72 bits. -/

namespace Sys2Proof

/-- A header decodes to a command exactly where it has the command's opcode and no length for an operand the command does
not take. -/
theorem decodeHeader_eq_legal_iff (h : Header) (op : Op) : decodeHeader h = .legal op ↔
    h.opcode = op.code ∧ (op = .derive → h.alen = 0) ∧ (op ≠ .init → h.blen = 0) := by
  constructor
  · intro hlegal
    unfold decodeHeader at hlegal
    split_ifs at hlegal <;> cases hlegal <;> simp_all [Op.code]
  · rintro ⟨hop, halen, hblen⟩
    cases op <;> simp_all [decodeHeader, Op.code]

/-- The illegal headers are those that decode to no command. -/
theorem decodeHeader_illegal_iff (h : Header) :
    (∃ why, decodeHeader h = .illegal why) ↔ ∀ op, decodeHeader h ≠ .legal op := by
  cases decodeHeader h <;> simp

/-- No command has the opcode exactly where it is reserved (30_encoding.md R94 (a)). -/
theorem ne_code_iff (opcode : Byte) : (∀ op : Op, opcode ≠ op.code) ↔ opcode = 0x00#8 ∨ 0x06#8 ≤ opcode := by
  refine ⟨fun hne => ?_, fun hreserved op => ?_⟩
  · have h1 := hne .init
    have h2 := hne .derive
    have h3 := hne .tag
    have h4 := hne .setcv
    have h5 := hne .crc32
    simp only [Op.code] at h1 h2 h3 h4 h5
    bv_omega
  · cases op <;> simp only [Op.code] <;> bv_omega

/-- Two vectors in a row are equal exactly where their parts are. -/
theorem bitVec_append_eq_append_iff {v w : Nat} (x x' : BitVec v) (y y' : BitVec w) :
    x ++ y = x' ++ y' ↔ x = x' ∧ y = y' := by
  refine ⟨fun h => ⟨?_, ?_⟩, fun ⟨hx, hy⟩ => by rw [hx, hy]⟩
  · simpa only [BitVec.extractLsb'_append_eq_left] using congrArg (BitVec.extractLsb' w v) h
  · simpa only [BitVec.extractLsb'_append_eq_right] using congrArg (BitVec.extractLsb' 0 w) h

/-- A length that fits its field is zero where the row's mask covers the field and the masked field is zero. -/
theorem length_and_mask_eq_zero_iff {n : Nat} (h : n ≤ Config.maxLen) (p : Prop) [Decidable p] :
    BitVec.ofNat 32 n &&& (if p then BitVec.allOnes 32 else 0#32) = 0#32 ↔ (p → n = 0) := by
  by_cases hp : p
  · simp only [Config.maxLen] at h
    rw [if_pos hp, BitVec.and_allOnes, forall_prop_of_true hp]
    bv_omega
  · simp [hp]

/-- A row's mask covers the opcode and the length of each operand the command does not take. -/
theorem Op.mask_eq_fields (op : Op) : op.mask =
    BitVec.allOnes 8 ++ (if op = .derive then BitVec.allOnes 32 else 0#32) ++
      (if op ≠ .init then BitVec.allOnes 32 else 0#32) := by
  cases op <;> decide

/-- A row's match value is the opcode, with zero lengths. -/
theorem Op.pattern_eq_fields (op : Op) : op.pattern = op.code ++ 0#32 ++ 0#32 := by
  cases op <;> decide

/-- A header's 72 bits match a command's row exactly where the header decodes to the command. -/
theorem Header.bits_match_iff {h : Header} (halen : h.alen ≤ Config.maxLen) (hblen : h.blen ≤ Config.maxLen) (op : Op) :
    h.bits &&& op.mask = op.pattern ↔ decodeHeader h = .legal op := by
  rw [decodeHeader_eq_legal_iff, op.mask_eq_fields, op.pattern_eq_fields, Header.bits, BitVec.and_append,
    BitVec.and_append, bitVec_append_eq_append_iff, bitVec_append_eq_append_iff, BitVec.and_allOnes,
    length_and_mask_eq_zero_iff halen, length_and_mask_eq_zero_iff hblen, and_assoc]

/-- Settles O34: the rows' masks and match values are the conditions the decoder tests. -/
theorem headerDecodesByTheOpcodeMap : Obligations.HeaderDecodesByTheOpcodeMap := by
  intro h halen hblen
  have hmatch := Header.bits_match_iff halen hblen
  refine ⟨fun op => (hmatch op).symm, ?_⟩
  rw [decodeHeader_illegal_iff]
  exact forall_congr' fun op => not_congr (hmatch op).symm

/-- The decoder tells the commands apart by their opcodes. -/
theorem Op.code_injective : Function.Injective Op.code := by
  intro op op' hcode
  have hdecode (op : Op) : decodeHeader ⟨op.code, 0, 0⟩ = .legal op :=
    (decodeHeader_eq_legal_iff _ _).mpr ⟨rfl, fun _ => rfl, fun _ => rfl⟩
  have hlegal := hdecode op
  rw [hcode, hdecode op'] at hlegal
  exact (HeaderMeaning.legal.inj hlegal).symm

/-- A header with a command's opcode is illegal exactly where it has a length for an operand the command does not take
(30_encoding.md R94 (b), (c)). -/
theorem decodeHeader_illegal_iff_of_code {h : Header} {op : Op} (hop : h.opcode = op.code) :
    (∃ why, decodeHeader h = .illegal why) ↔ (op = .derive ∧ h.alen ≠ 0) ∨ (op ≠ .init ∧ h.blen ≠ 0) := by
  have honly : (∀ op', decodeHeader h ≠ .legal op') ↔ decodeHeader h ≠ .legal op := by
    refine ⟨fun hne => hne op, fun hne op' hlegal => hne ?_⟩
    have hop' := ((decodeHeader_eq_legal_iff h op').mp hlegal).1
    rwa [Op.code_injective (hop.symm.trans hop')]
  rw [decodeHeader_illegal_iff, honly, ne_eq, decodeHeader_eq_legal_iff]
  tauto

/-- The illegal headers are those of 30_encoding.md R94 (a), (b), (c). -/
theorem decodeHeader_illegal_iff_fields (h : Header) : (∃ why, decodeHeader h = .illegal why) ↔
    (h.opcode = 0x00#8 ∨ 0x06#8 ≤ h.opcode) ∨
    (h.opcode = 0x02#8 ∧ (h.alen ≠ 0 ∨ h.blen ≠ 0)) ∨
    ((h.opcode = 0x03#8 ∨ h.opcode = 0x04#8 ∨ h.opcode = 0x05#8) ∧ h.blen ≠ 0) := by
  by_cases hreserved : ∀ op : Op, h.opcode ≠ op.code
  · have hillegal : ∃ why, decodeHeader h = .illegal why :=
      (decodeHeader_illegal_iff h).mpr fun op hlegal => hreserved op ((decodeHeader_eq_legal_iff h op).mp hlegal).1
    exact iff_of_true hillegal (.inl ((ne_code_iff _).mp hreserved))
  · rw [← ne_code_iff, or_iff_right hreserved]
    push Not at hreserved
    obtain ⟨op, hop⟩ := hreserved
    rw [decodeHeader_illegal_iff_of_code hop]
    cases op <;> simp [hop, Op.code]

end Sys2Proof
end

section
/-! PROOFS. A frame is its header's nine bytes and the payload they announce (30_encoding.md R90, R91, R95), and each command
has one frame. -/

namespace Sys2Proof

/-- The nine bytes of a header (30_encoding.md R90). -/
def Header.bytes (h : Header) : List Byte := h.opcode :: (lengthBytes h.alen ++ lengthBytes h.blen)

theorem encodeHeader_eq_bytes (i : Instr) :
    encodeHeader i = Header.bytes ⟨i.op.code, i.operandA.length, i.operandB.length⟩ := rfl

/-- A length that fits its field is read back from its four bytes. -/
theorem be32_of_length_le {n : Nat} (h : n ≤ Config.maxLen) :
    be32 (BitVec.ofNat 8 (n / 2 ^ 24)) (BitVec.ofNat 8 (n / 2 ^ 16)) (BitVec.ofNat 8 (n / 2 ^ 8))
      (BitVec.ofNat 8 n) = n := by
  have hmax : Config.maxLen < 2 ^ 32 := by decide
  rw [be32_of_length, Nat.mod_eq_of_lt (h.trans_lt hmax)]

/-- The bytes of a length field are those of the length it holds. -/
theorem lengthBytes_be32 (b0 b1 b2 b3 : Byte) : lengthBytes (be32 b0 b1 b2 b3) = [b0, b1, b2, b3] := by
  have h0 := b0.isLt
  have h1 := b1.isLt
  have h2 := b2.isLt
  have h3 := b3.isLt
  simp only [lengthBytes, be32, List.cons.injEq, and_true, ← BitVec.toNat_inj, BitVec.toNat_ofNat]
  omega

/-- Settles O33: the parser reads the fields with `be32`, and `lengthBytes` inverts it. -/
theorem lengthFieldsAreBigEndian : Obligations.LengthFieldsAreBigEndian :=
  ⟨fun _ _ _ _ _ _ _ _ _ _ => ⟨_, rfl, rfl, rfl, be32_le_maxLen .., rfl, be32_le_maxLen ..⟩,
    fun _ hn => ⟨_, _, _, _, rfl, (be32_of_length_le hn).symm⟩⟩

/-- What reads as a header is that header's nine bytes and what follows them. -/
theorem parseHeader_eq_some {bytes body : List Byte} {h : Header} (hp : parseHeader bytes = some (h, body)) :
    bytes = h.bytes ++ body ∧ h.alen ≤ Config.maxLen ∧ h.blen ≤ Config.maxLen := by
  unfold parseHeader at hp
  split at hp
  · cases hp
    exact ⟨by simp [Header.bytes, lengthBytes_be32], be32_le_maxLen .., be32_le_maxLen ..⟩
  · cases hp

@[simp] theorem Header.length_bytes (h : Header) : h.bytes.length = 9 := rfl

/-- Fewer than nine bytes are no header (30_encoding.md R95). -/
theorem parseHeader_eq_none_iff (bytes : List Byte) : parseHeader bytes = none ↔ bytes.length < 9 := by
  constructor
  · intro hnone
    rcases bytes with
      _ | ⟨_, _ | ⟨_, _ | ⟨_, _ | ⟨_, _ | ⟨_, _ | ⟨_, _ | ⟨_, _ | ⟨_, _ | ⟨_, _⟩⟩⟩⟩⟩⟩⟩⟩⟩ <;>
      simp_all [parseHeader]
  · intro hlen
    cases hp : parseHeader bytes with
    | none => rfl
    | some p =>
      obtain ⟨hbytes, -, -⟩ := parseHeader_eq_some hp
      simp [hbytes] at hlen

/-- Everything the bytes after a header decode to: an unfinished payload, a command or an illegal frame. -/
theorem decodeBody_cases (h : Header) (body : List Byte) :
    (body.length < h.alen + h.blen ∧ decodeBody h body = .incomplete .payload) ∨
    (h.alen + h.blen ≤ body.length ∧
      ((∃ op, decodeHeader h = .legal op ∧ decodeBody h body =
          .instr (assemble op (body.take h.alen) ((body.drop h.alen).take h.blen)) (9 + h.alen + h.blen)) ∨
        ∃ why, decodeHeader h = .illegal why ∧ decodeBody h body = .illegal why (9 + h.alen + h.blen))) := by
  by_cases hlen : body.length < h.alen + h.blen
  · exact .inl ⟨hlen, if_pos hlen⟩
  · refine .inr ⟨not_lt.mp hlen, ?_⟩
    rw [decodeBody, if_neg hlen]
    cases decodeHeader h with
    | legal op => exact .inl ⟨op, rfl, rfl⟩
    | illegal why => exact .inr ⟨why, rfl, rfl⟩

theorem decodeBody_ne_incomplete_header (h : Header) (body : List Byte) :
    decodeBody h body ≠ .incomplete .header := by
  rcases decodeBody_cases h body with ⟨-, hd⟩ | ⟨-, ⟨op, -, hd⟩ | ⟨why, -, hd⟩⟩ <;> simp [hd]

/-- A payload is unfinished exactly where bytes of it are missing (30_encoding.md R95). -/
theorem decodeBody_eq_incomplete_payload_iff (h : Header) (body : List Byte) :
    decodeBody h body = .incomplete .payload ↔ body.length < h.alen + h.blen := by
  rcases decodeBody_cases h body with ⟨hlen, hd⟩ | ⟨hlen, ⟨op, -, hd⟩ | ⟨why, -, hd⟩⟩ <;> simp [hd, hlen]

theorem decodeBody_eq_illegal {h : Header} {body : List Byte} {why : Illegal} {len : Nat}
    (hd : decodeBody h body = .illegal why len) : len = 9 + h.alen + h.blen := by
  rcases decodeBody_cases h body with ⟨-, hd'⟩ | ⟨-, ⟨op, -, hd'⟩ | ⟨why, -, hd'⟩⟩
  · exact nomatch hd'.symm.trans hd
  · exact nomatch hd'.symm.trans hd
  · exact (Decoded.illegal.inj (hd.symm.trans hd')).2

/-- The bytes decode to an illegal frame where their header is illegal and its payload is there. -/
theorem decode_of_illegal_header {bytes body : List Byte} {h : Header} {why : Illegal}
    (hp : parseHeader bytes = some (h, body)) (hwhy : decodeHeader h = .illegal why)
    (hlen : h.alen + h.blen ≤ body.length) : decode bytes = .illegal why (9 + h.alen + h.blen) := by
  rw [decode_of_parseHeader hp, decodeBody, if_neg (not_lt.mpr hlen), hwhy]

@[simp] theorem op_assemble (op : Op) (a b : List Byte) : (assemble op a b).op = op := by
  cases op <;> rfl

/-- A command keeps the operand `A` it is put together from, where it takes one or there is none. -/
theorem operandA_assemble {op : Op} {a : List Byte} (h : op = .derive → a = []) (b : List Byte) :
    (assemble op a b).operandA = a := by
  cases op with
  | derive => exact (h rfl).symm
  | init | tag | setcv | crc32 => rfl

/-- So it does the operand `B`. -/
theorem operandB_assemble {op : Op} {b : List Byte} (h : op ≠ .init → b = []) (a : List Byte) :
    (assemble op a b).operandB = b := by
  cases op with
  | init => rfl
  | derive | tag | setcv | crc32 => exact (h nofun).symm

/-- A decoded command has the header's opcode, and its operands are the payload's bytes. -/
theorem decodeBody_eq_instr {h : Header} {body : List Byte} {i : Instr} {len : Nat}
    (hd : decodeBody h body = .instr i len) :
    h.alen + h.blen ≤ body.length ∧ h.opcode = i.op.code ∧ i.operandA = body.take h.alen ∧
      i.operandB = (body.drop h.alen).take h.blen ∧ len = 9 + h.alen + h.blen := by
  rcases decodeBody_cases h body with ⟨-, hd'⟩ | ⟨hlen, ⟨op, hlegal, hd'⟩ | ⟨why, -, hd'⟩⟩
  · exact nomatch hd'.symm.trans hd
  · obtain ⟨rfl, rfl⟩ := Decoded.instr.inj (hd.symm.trans hd')
    obtain ⟨hop, halen, hblen⟩ := (decodeHeader_eq_legal_iff h op).mp hlegal
    exact ⟨hlen, by rw [hop, op_assemble], operandA_assemble (fun hderive => by simp [halen hderive]) _,
      operandB_assemble (fun hinit => by simp [hblen hinit]) _, rfl⟩
  · exact nomatch hd'.symm.trans hd

/-- A decoded command's operands have the header's lengths. -/
theorem operand_lengths_of_decodeBody {h : Header} {body : List Byte} {i : Instr} {len : Nat}
    (hd : decodeBody h body = .instr i len) : i.operandA.length = h.alen ∧ i.operandB.length = h.blen := by
  obtain ⟨hlen, -, hA, hB, -⟩ := decodeBody_eq_instr hd
  rw [hA, hB, List.length_take, List.length_take, List.length_drop]
  omega

/-- Settles O36: nine bytes or more have a header, and the bytes after it decide the rest. -/
theorem framesAreSelfDelimiting : Obligations.FramesAreSelfDelimiting := by
  intro bytes
  refine ⟨?_, fun h body hp => ?_⟩
  · rw [← parseHeader_eq_none_iff]
    cases hp : parseHeader bytes with
    | none => simp [decode, hp]
    | some p => simp [decode_of_parseHeader hp, decodeBody_ne_incomplete_header]
  · have hlen : bytes.length = 9 + body.length := by simp [(parseHeader_eq_some hp).1]
    rw [decode_of_parseHeader hp, decodeBody_eq_incomplete_payload_iff, hlen, Nat.add_assoc, Nat.add_lt_add_iff_left]
    refine ⟨rfl, Iff.rfl, fun i len hd => ?_, fun why len hd => ?_⟩
    · obtain ⟨-, -, -, -, hframe⟩ := decodeBody_eq_instr hd
      exact ⟨hframe.trans (Nat.add_assoc ..), operand_lengths_of_decodeBody hd⟩
    · exact (decodeBody_eq_illegal hd).trans (Nat.add_assoc ..)

/-- Settles O37: a well-formed command's header holds its own opcode and lengths. -/
theorem decodeOfEncodeIsTheCommand : Obligations.DecodeOfEncodeIsTheCommand :=
  fun _ rest hwell => decode_encode_append hwell rest

/-- Settles O38: the frame decoded is a header's bytes and as much payload as the header says, and both are the command's. -/
theorem encodeOfDecodeIsTheFrame : Obligations.EncodeOfDecodeIsTheFrame := by
  intro bytes i len hdecode
  cases hp : parseHeader bytes with
  | none => simp [decode, hp] at hdecode
  | some p =>
    obtain ⟨h, body⟩ := p
    rw [decode_of_parseHeader hp] at hdecode
    obtain ⟨rfl, halen, hblen⟩ := parseHeader_eq_some hp
    obtain ⟨hlen, hop, hA, hB, rfl⟩ := decodeBody_eq_instr hdecode
    obtain ⟨hlenA, hlenB⟩ := operand_lengths_of_decodeBody hdecode
    refine ⟨i.wellFormed_iff.mpr ⟨hlenA ▸ halen, hlenB ▸ hblen⟩, ?_, ?_⟩
    · rw [List.length_append, Header.length_bytes, Nat.add_assoc]
      exact Nat.add_le_add_left hlen 9
    · have hheader : encodeHeader i = h.bytes := by rw [encodeHeader_eq_bytes, hlenA, hlenB, ← hop]
      rw [encode, hheader, hA, hB, ← List.take_add, Nat.add_assoc, ← h.length_bytes, List.take_length_add_append]

/-- A command's frame decodes to it, and is its encoding. -/
theorem decode_and_encode {i : Instr} {frame : List Byte} (hwell : i.wellFormed = true) (hframe : encode i = frame) :
    decode frame = .instr i frame.length ∧ encode i = frame := by
  have hdecode := decode_encode_append hwell []
  rw [List.append_nil, ← length_encode, hframe] at hdecode
  exact ⟨hdecode, hframe⟩

/-- Settles O39: the encodings are evaluated, and the decoder inverts them. -/
theorem workedEncodings : Obligations.WorkedEncodings := by
  refine ⟨decode_and_encode rfl rfl, decode_and_encode rfl rfl, decode_and_encode rfl rfl, ?_, rfl, rfl⟩
  rintro key cv rfl rfl
  exact decode_and_encode rfl rfl

end Sys2Proof
end

section
/-! PROOFS. A frame with an illegal header is skipped and reported (30_encoding.md R94, 60_exceptions.md R211). -/

namespace Sys2Proof.Machine

/-- An idle block answers an illegal frame with `IllegalCommand`, once it has taken it. -/
theorem step_of_decode_illegal {s : State} {why : Illegal} {len : Nat} (hreset : s.resetIn = .released)
    (hready : s.ready = true) (hdecode : decode s.cmdIn = .illegal why len) :
    step s = .next ((s.takeFrame len).raise .illegalCommand) := by
  have hoffered : s.cmdIn ≠ [] := by
    intro hempty
    rw [hempty] at hdecode
    exact nomatch hdecode
  have hfetch : fetch s = .illegal (s.takeFrame len) := by
    rw [fetch_of_no_reset (by simp [hreset]), fetchFrame_of_ready hready hoffered, hdecode]
  have hstep : step s = (s.takeFrame len).underReset (.next ((s.takeFrame len).raise .illegalCommand)) := by
    rw [step, hfetch]
  rw [hstep, State.underReset_of_no_reset (by simp [hreset])]

/-- Settles O35: the frame leaves the command port whole, and its error is not fatal. -/
theorem illegalHeadersAreSkippedAndReported : Obligations.IllegalHeadersAreSkippedAndReported := by
  refine ⟨decodeHeader_illegal_iff_fields, fun s h body why hreset hready hp hwhy hlen => ?_⟩
  have hdecode := decode_of_illegal_header hp hwhy hlen
  have hbody : s.cmdIn.drop (9 + h.alen + h.blen) = body.drop (h.alen + h.blen) := by
    rw [(parseHeader_eq_some hp).1, Nat.add_assoc, ← h.length_bytes, List.drop_length_add_append]
  rw [step_of_decode_illegal hreset hready hdecode, State.raise_eq,
    State.takeFrame_eq s _ (nine_le_of_decode_illegal hdecode), ← hbody]
  simp [State.settled, CmdError.fatal, CmdError.status, CmdError.info]

end Sys2Proof.Machine
end

section
/-! PROOFS. The responses stay rows of the response table (30_encoding.md R96 to R98), whatever the step. -/

namespace Sys2Proof.Machine

/-- All responses of the history are rows of the response table (30_encoding.md R98). -/
def ResponsesLegal (h : List Event) : Prop := ∀ r ∈ responses h, LegalResponse r

/-- Events without a response keep them so. -/
theorem ResponsesLegal.append {h es : List Event} (hh : ResponsesLegal h) (hes : responses es = []) :
    ResponsesLegal (h ++ es) := by
  intro r hr
  rw [responses_append, hes, List.append_nil] at hr
  exact hh r hr

/-- So does one more legal response. -/
theorem ResponsesLegal.concat {h : List Event} {r : List Byte} (hh : ResponsesLegal h) (hr : LegalResponse r) :
    ResponsesLegal (h ++ [.response r]) := by
  intro r' hr'
  rw [responses_append, List.mem_append] at hr'
  rcases hr' with hold | hnew
  · exact hh r' hold
  · rwa [List.mem_singleton.mp hnew]

theorem responses_take_eq_nil {es : List Event} (h : responses es = []) (n : Nat) : responses (es.take n) = [] := by
  rw [← List.take_append_drop n es, responses_append] at h
  exact (List.append_eq_nil_iff.mp h).1

/-- A frame that has been taken is answered after events without a response, or abandoned at a reset before its
response. -/
theorem State.PortsAfter.responsesLegal_underReset {s u t : State} {es : List Event} {r : List Byte}
    (hports : s.PortsAfter (es ++ [.response r]) u) (hes : responses es = []) (hr : LegalResponse r)
    (hs : ResponsesLegal s.history) (h : s.underReset (.next u) = .next t) : ResponsesLegal t.history := by
  have hhistory : u.history = s.history ++ es ++ [.response r] := hports.history.trans (List.append_assoc ..).symm
  rcases State.underReset_next h with rfl | ⟨n, rfl⟩
  · rw [hhistory]
    exact (hs.append hes).concat hr
  · rw [State.abandon_history n hhistory]
    exact (hs.append (responses_take_eq_nil hes n)).append rfl

/-- Settles O55: a step is a reset event, a wait, or one frame taken and then answered legally or abandoned. -/
theorem responsesStayLegalUnderEveryStep : Obligations.ResponsesStayLegalUnderEveryStep := by
  intro s t (hlegal : ResponsesLegal s.history) hstep
  have htaken (len : Nat) : ResponsesLegal (s.takeFrame len).history := hlegal.append rfl
  rcases step_cases s with ⟨taken, -, hreset⟩ | ⟨-, ⟨-, hfault⟩ | ⟨-, -, hwait⟩ | ⟨-, -, -, hfault⟩ |
    ⟨-, -, why, len, -, hillegal⟩ | ⟨-, -, i, len, -, hrun⟩⟩
  · obtain rfl := Host.Outcome.next.inj (hreset.symm.trans hstep)
    exact hlegal.append (es := [.reset]) rfl
  · exact nomatch hfault.symm.trans hstep
  · obtain rfl := Host.Outcome.next.inj (hwait.symm.trans hstep)
    exact hlegal
  · exact nomatch hfault.symm.trans hstep
  · have hports := (State.PortsAfter.refl (s.takeFrame len)).raise .illegalCommand
    exact hports.responsesLegal_underReset rfl .illegalCommand (htaken len) (hillegal.symm.trans hstep)
  · obtain ⟨es, r, u, hexec, h⟩ := exec_answered i (s.takeFrame len)
    rw [hexec] at hrun
    exact h.ports.responsesLegal_underReset h.events.cipherExchanges.responses_eq_nil h.legal (htaken len)
      (hrun.symm.trans hstep)

end Sys2Proof.Machine
end

section
/-! PROOFS. `INIT` and `SETCV` with operands of sixteen bytes (40_session_commands.md R120, R121), and the lifecycle of the
session (R122): no command but `DERIVE` makes subkeys valid. -/

namespace Sys2Proof.Machine

/-- Settles O10: the state a successful `INIT` starts the session in, answered with an empty result. -/
theorem initWithSixteenByteOperandsStartsASession : Obligations.InitWithSixteenByteOperandsStartsASession := by
  intro key cv s hkey hcv
  rw [exec_init_of_length_eq hkey hcv, State.respond_eq]
  rfl

/-- Settles O13: the state after the one write of a successful `SETCV`, answered with an empty result. -/
theorem setcvWritesOnlyTheChainingValue : Obligations.SetcvWritesOnlyTheChainingValue := by
  intro value s hvalue
  rw [exec_setcv_of_length_eq hvalue, State.respond_eq]
  rfl

/-- The lifecycle state is a function of the session's flags. -/
theorem State.SameSession.lifecycle {s t : State} (h : s.SameSession t) : s.lifecycle = t.lifecycle := by
  simp only [State.lifecycle, h.keyValid, h.subkeysValid]

/-- An error ends the session or leaves its lifecycle state alone, by its fatality (60_exceptions.md R210). -/
theorem State.lifecycle_raise (e : CmdError) (s : State) :
    (s.raise e).lifecycle = if e.fatal then some .empty else s.lifecycle := by
  cases hfatal : e.fatal with
  | true => exact (s.raise_sameSession_of_fatal hfatal).lifecycle
  | false => exact (s.raise_sameSession_of_not_fatal hfatal).lifecycle

/-- The fatal errors are those of the statuses 01 and 02 (30_encoding.md R97, 60_exceptions.md R210). -/
theorem CmdError.fatal_iff_status (e : CmdError) : e.fatal = true ↔ e.status = 0x01#8 ∨ e.status = 0x02#8 := by
  refine ⟨fun hfatal => ?_, CmdError.fatal_of_status⟩
  cases e with
  | invalidKeyLength => exact .inl rfl
  | invalidChainingValueLength => exact .inr rfl
  | uninitializedSubkeys | cipherPrimitiveFailure | illegalCommand => exact nomatch hfatal

/-- A successful `INIT` leads to *keyed*, a successful `DERIVE` to *ready*, and no other success leaves the lifecycle state
(40_session_commands.md R122). -/
theorem SessionUpdate.lifecycle {s v : State} {i : Instr} (h : SessionUpdate s i v) :
    v.lifecycle = if i.op = .init then some .keyed else if i.op = .derive then some .ready else s.lifecycle := by
  cases h with
  | derive hkey => simp [State.lifecycle, State.writeSubkeys, Instr.op, hkey]
  | init | tag | setcv | crc32 => rfl

/-- Settles O48: an error's status says whether it is fatal, and a success is its command's row of 10_state.md R37. -/
theorem lifecycleTransitions : Obligations.LifecycleTransitions := by
  refine ⟨fun i s => ?_, fun s => ⟨s.lifecycle_raise .illegalCommand, rfl⟩⟩
  obtain ⟨t, hexec, houtcome⟩ := exec_outcome i s
  cases houtcome with
  | @raised u e same =>
    refine ⟨_, _, _, hexec, State.getLast?_history_raise e u, ?_⟩
    simp only [State.lifecycle_raise, same.lifecycle, CmdError.fatal_iff_status, CmdError.status_ne_ok, false_and,
      if_false]
  | @answered u v result update same =>
    refine ⟨_, _, _, hexec, State.getLast?_history_respond result u, ?_⟩
    rw [((u.respond_sameSession result).trans same).lifecycle, update.lifecycle]
    simp [statusOk]

/-- No outcome of a command but `DERIVE` makes subkeys valid that were not. -/
theorem CommandOutcome.subkeysValid_eq_false {s t : State} {i : Instr} (h : CommandOutcome s i t)
    (hderive : i.op ≠ .derive) (hsub : s.subkeysValid = false) : t.subkeysValid = false := by
  cases h with
  | @raised u e same =>
    cases hfatal : e.fatal with
    | true => exact (u.raise_sameSession_of_fatal hfatal).subkeysValid
    | false => exact ((u.raise_sameSession_of_not_fatal hfatal).trans same).subkeysValid.trans hsub
  | @answered u v result update same =>
    refine (((u.respond_sameSession result).trans same).subkeysValid).trans ?_
    cases update with
    | derive => exact absurd rfl hderive
    | init => rfl
    | tag | setcv | crc32 => exact hsub

/-- While subkeys are not valid, no command but `DERIVE` sends a cipher request (20_memory.md R70). -/
theorem CommandEvents.requests_of_no_subkeys {s : State} {i : Instr} {st : Byte} {es : List Event}
    (h : CommandEvents s i st es) (hderive : i.op ≠ .derive) (hsub : s.subkeysValid = false) : requests es = [] := by
  cases h with
  | noCipher | tagNoSubkeys => rfl
  | deriveNoKey | derive | deriveFailed => exact absurd rfl hderive
  | tag hvalid | tagFailed hvalid => exact absurd hvalid (by simp [hsub])

/-- Without valid subkeys, a command but `DERIVE` leaves them so and adds no request to the history. -/
theorem exec_of_no_subkeys {i : Instr} {s : State} (hderive : i.op ≠ .derive) (hsub : s.subkeysValid = false) :
    ∃ t, exec i s = .next t ∧ t.subkeysValid = false ∧ requests t.history = requests s.history := by
  obtain ⟨es, r, t, hexec, h⟩ := exec_answered i s
  refine ⟨t, hexec, (CommandOutcome.of_exec hexec).subkeysValid_eq_false hderive hsub, ?_⟩
  simp [h.ports.history, h.events.requests_of_no_subkeys hderive hsub, requests]

/-- Without valid subkeys, commands without a `DERIVE` among them leave them so and add no request to the history. -/
theorem runCommands_of_no_subkeys {commands : List Instr} : ∀ {s : State}, (∀ i ∈ commands, i.op ≠ .derive) →
    s.subkeysValid = false →
    ∃ t, runCommands commands s = .next t ∧ t.subkeysValid = false ∧ requests t.history = requests s.history := by
  induction commands with
  | nil => exact fun _ hsub => ⟨_, rfl, hsub, rfl⟩
  | cons i is ih =>
    intro s hderive hsub
    obtain ⟨hi, his⟩ := List.forall_mem_cons.mp hderive
    obtain ⟨t, hexec, hsubt, hreqt⟩ := exec_of_no_subkeys hi hsub
    obtain ⟨u, hrun, hsubu, hrequ⟩ := ih his hsubt
    exact ⟨u, runCommands_cons hexec hrun, hsubu, hrequ.trans hreqt⟩

/-- A `TAG` without valid subkeys answers `UninitializedSubkeys` and changes nothing of the session (60_exceptions.md
R214). -/
theorem exec_tag_eq_of_no_subkeys {s : State} (hsub : s.subkeysValid = false) (m : List Byte) :
    exec (.tag m) s = .next { s.settled with history := s.history ++ [.response [0x03#8, 0x00#8]] } := by
  rw [exec_tag_of_no_subkeys hsub, State.raise_eq]
  rfl

/-- Settles O14: `INIT` takes the subkeys' flag, no command but `DERIVE` sets it, and a `TAG` without it is an error that
changes nothing. -/
theorem tagAfterInitNeedsADerive : Obligations.TagAfterInitNeedsADerive := by
  refine ⟨fun key cv m between s hkey hcv hderive => ?_, fun key cv m s hkey hcv => ?_⟩
  · obtain ⟨t, hrun, hsub, hreq⟩ := runCommands_of_no_subkeys
      (s := (s.startSession (Block.ofBytes key) (Block.ofBytes cv)).respond []) hderive rfl
    have hstart := ((s.portsAfter_startSession (Block.ofBytes key) (Block.ofBytes cv)).respond []).history
    exact ⟨t, runCommands_cons (exec_init_of_length_eq hkey hcv s) hrun, hsub,
      hreq.trans (by simp [hstart, requests]), exec_tag_eq_of_no_subkeys hsub m⟩
  · have hinit := initWithSixteenByteOperandsStartsASession key cv s hkey hcv
    exact ⟨_, runCommands_cons hinit (runCommands_cons (exec_tag_eq_of_no_subkeys rfl m) rfl),
      List.append_assoc .., rfl, rfl⟩

end Sys2Proof.Machine
end

section
/-! PROOFS. The byte-buffer helpers, byte by byte (41_subkey_derivation.md R140 to R142), and the whole next state of a
successful `DERIVE` (R143). -/

namespace Sys2Proof.Machine

/-- `XOR16` works on each byte by itself. -/
theorem Block.byte_xor16 (a b : Block) (i : Nat) :
    Block.byte (xor16 a b) i = Block.byte a i ^^^ Block.byte b i :=
  BitVec.extractLsb'_xor

/-- Settles O2: byte by byte by the bits, and the laws by those of the 128-bit xor. -/
theorem xorIsBytewise : Obligations.XorIsBytewise :=
  ⟨fun a b i _ => Block.byte_xor16 a b i, BitVec.xor_comm, BitVec.xor_assoc,
    fun _ => ⟨BitVec.xor_zero, BitVec.xor_self⟩⟩

/-- A bit of a byte of the shifted value is the next lower bit of the whole value, or the 0 shifted in. -/
theorem Block.getLsbD_byte_shl1 (v : Block) (i : Nat) {j : Nat} (hj : j < 8) :
    (Block.byte (shl1 v) i).getLsbD j = (!decide (8 * (15 - i) + j < 1) && v.getLsbD (8 * (15 - i) + j - 1)) := by
  have hin : 8 * (15 - i) + j < 128 := by omega
  simp only [Block.getLsbD_byte, shl1, BitVec.getLsbD_shiftLeft, hj, hin, decide_true, Bool.true_and]

/-- Inside a byte every bit of the shifted value is the next lower bit of the same byte. -/
theorem Block.getLsbD_byte_shl1_succ (v : Block) (i : Nat) {j : Nat} (hj : j + 1 < 8) :
    (Block.byte (shl1 v) i).getLsbD (j + 1) = (Block.byte v i).getLsbD j := by
  rw [Block.getLsbD_byte_shl1 v i hj, Block.getLsbD_byte]
  simp [Nat.lt_of_succ_lt hj, ← Nat.add_assoc]

/-- The lowest bit of a byte before the last comes from the top of the next byte. -/
theorem Block.getLsbD_byte_shl1_zero (v : Block) {i : Nat} (hi : i < 15) :
    (Block.byte (shl1 v) i).getLsbD 0 = (Block.byte v (i + 1)).getLsbD 7 := by
  have hcarry : 8 * (15 - i) - 1 = 8 * (15 - (i + 1)) + 7 := by omega
  rw [Block.getLsbD_byte_shl1 v i (by decide), Block.getLsbD_byte]
  simp [hcarry, Nat.sub_ne_zero_of_lt hi]

/-- The lowest bit of the last byte is 0. -/
theorem Block.getLsbD_byte_shl1_last_zero (v : Block) : (Block.byte (shl1 v) 15).getLsbD 0 = false :=
  Block.getLsbD_byte_shl1 v 15 (by decide)

/-- A byte before the last shifts left and takes in the top bit of the next byte. -/
theorem Block.byte_shl1_of_lt (v : Block) {i : Nat} (hi : i < 15) :
    Block.byte (shl1 v) i = (Block.byte v i <<< 1) ||| (Block.byte v (i + 1) >>> 7) := by
  refine BitVec.eq_of_getLsbD_eq fun j hj => ?_
  cases j with
  | zero =>
    rw [Block.getLsbD_byte_shl1_zero v hi]
    simp
  | succ j =>
    rw [Block.getLsbD_byte_shl1_succ v i hj]
    simp [hj, Nat.lt_of_succ_lt hj, show 8 ≤ 7 + (j + 1) by omega]

/-- The last byte shifts left and takes in a 0. -/
theorem Block.byte_shl1_last (v : Block) : Block.byte (shl1 v) 15 = Block.byte v 15 <<< 1 := by
  refine BitVec.eq_of_getLsbD_eq fun j hj => ?_
  cases j with
  | zero =>
    rw [Block.getLsbD_byte_shl1_last_zero]
    simp
  | succ j =>
    rw [Block.getLsbD_byte_shl1_succ v 15 hj]
    simp [hj, Nat.lt_of_succ_lt hj]

/-- As a number, `SHL1` doubles modulo 2^128. -/
theorem toNat_shl1 (v : Block) : (shl1 v).toNat = (2 * v.toNat) % 2 ^ 128 := by
  rw [shl1, BitVec.toNat_shiftLeft, Nat.shiftLeft_eq, Nat.pow_one, Nat.mul_comm]

/-- Settles O3: each bit of the shifted value is the next lower bit, which for bit 0 of a byte stands in the next byte. -/
theorem shiftCarriesFromTheNextByte : Obligations.ShiftCarriesFromTheNextByte :=
  fun v => ⟨fun _ hi => Block.byte_shl1_of_lt v hi, Block.byte_shl1_last v, toNat_shl1 v⟩

/-- The top bit of a value is bit 7 of its byte 0. -/
theorem Block.getLsbD_byte_zero_seven (v : Block) : (Block.byte v 0).getLsbD 7 = v.msb := by
  rw [Block.getLsbD_byte, BitVec.msb_eq_getLsbD_last]
  rfl

/-- `RB` as a 16-byte value is zero but for its last byte. -/
theorem Block.byte_rb_of_lt : ∀ i < 15, Block.byte Config.rb i = 0#8 := by decide

/-- Doubling xors the byte of `RB` at the same index, where the top bit of the input is set. -/
theorem Block.byte_dbl (v : Block) (i : Nat) : Block.byte (dbl v) i =
    if (Block.byte v 0).getLsbD 7 then Block.byte (shl1 v) i ^^^ Block.byte Config.rb i else Block.byte (shl1 v) i := by
  rw [dbl, Block.getLsbD_byte_zero_seven, apply_ite (Block.byte · i)]
  exact congrArg (ite _ · _) (Block.byte_xor16 ..)

/-- Settles O4: the constant has no bit outside byte 15, where it is `0x87`. -/
theorem doublingXorsTheLastByteOnly : Obligations.DoublingXorsTheLastByteOnly := by
  refine fun v => ⟨fun i hi => ?_, Block.byte_dbl v 15⟩
  rw [Block.byte_dbl, Block.byte_rb_of_lt i hi, BitVec.xor_zero, ite_self]

/-- Settles O15: the state after the one exchange and the writes of both subkeys, answered with an empty result. -/
theorem deriveWritesBothSubkeys : Obligations.DeriveWritesBothSubkeys := by
  intro s hkey hdraw
  have hhistory (r a x : Event) : s.history ++ [r, a, x] = s.history ++ [r] ++ [a] ++ [x] := by simp
  rw [exec_derive_of_success hkey hdraw, State.respond_eq, List.drop_one, hhistory]
  rfl

/-- Settles O16: the first `DERIVE` leaves `KEY` and `KEY_VALID` as they were, so the second is the first over again, on
the next decision. -/
theorem deriveIsIdempotent : Obligations.DeriveIsIdempotent := by
  intro s hkey hdraw₀ hdraw₁
  refine ⟨_, _, deriveWritesBothSubkeys s hkey hdraw₀, deriveWritesBothSubkeys _ hkey ?_, rfl, rfl, rfl, rfl, rfl,
    ⟨s.read .key, z16, z16⟩, .ok (Config.enc (s.read .key) z16 z16), requests_append .., requests_append .., rfl⟩
  exact (State.drawAt_drop (s := s) 1 (by rfl) (by rfl) (by rfl) 0).trans hdraw₁

end Sys2Proof.Machine
end

section
/-! PROOFS. The segmentation of a message, its padding and the masking of its last block (42_tag_computation.md R161 to
R164, R169). -/

namespace Sys2Proof.Machine

theorem needsPadding_iff (n : Nat) : needsPadding n = true ↔ n % 16 ≠ 0 ∨ n = 0 := decide_eq_true_iff

theorem needsPadding_eq_false_iff (n : Nat) : needsPadding n = false ↔ n % 16 = 0 ∧ n ≠ 0 := by
  rw [← Bool.not_eq_true, needsPadding_iff, not_or, not_not]

theorem numberOfBlocks_of_padding {n : Nat} (h : needsPadding n = true) : numberOfBlocks n = n / 16 + 1 := if_pos h

theorem numberOfBlocks_of_no_padding {n : Nat} (h : needsPadding n = false) : numberOfBlocks n = n / 16 := by
  rw [numberOfBlocks, h, if_neg Bool.false_ne_true]

/-- The number of blocks is the length over sixteen, rounded up, and at least 1 (42_tag_computation.md R161). -/
theorem numberOfBlocks_eq_max (n : Nat) : numberOfBlocks n = max 1 ((n + 15) / 16) := by
  cases h : needsPadding n with
  | true =>
    have hn := (needsPadding_iff n).mp h
    rw [numberOfBlocks_of_padding h]
    omega
  | false =>
    have hn := (needsPadding_eq_false_iff n).mp h
    rw [numberOfBlocks_of_no_padding h]
    omega

/-- Settles O5: by the two cases of the padding decision. -/
theorem paddingDecisionAndBlockCount : Obligations.PaddingDecisionAndBlockCount := by
  intro n
  have hmax := numberOfBlocks_eq_max n
  refine ⟨needsPadding_iff n, numberOfBlocks_of_padding, fun h => ?_, by omega, hmax⟩
  have hn := (needsPadding_eq_false_iff n).mp h
  omega

@[simp] theorem length_memRead (operand : List Byte) (i n : Nat) :
    (memRead operand i n).length = min n (operand.length - i) := by
  rw [memRead, List.length_take, List.length_drop]

/-- Byte `j` of what is read from index `i` on is byte `i + j` of the operand (20_memory.md R50). -/
theorem getElem?_memRead (operand : List Byte) (i : Nat) {n j : Nat} (hj : j < n) :
    (memRead operand i n)[j]? = operand[i + j]? := by
  rw [memRead, List.getElem?_take_of_lt hj, List.getElem?_drop]

/-- The first `k` chunks in order are the first `16 k` bytes of the message. -/
theorem flatten_chunks (a : List Byte) (k : Nat) : ((List.range k).map (chunk a)).flatten = a.take (16 * k) := by
  induction k with
  | zero => rfl
  | succ k ih =>
    rw [List.range_succ, List.map_append, List.flatten_append, ih, Nat.mul_succ, List.take_add]
    simp [chunk, memRead]

/-- The last chunk is what the chunks before it leave of the message. -/
theorem lastChunk_eq_drop (a : List Byte) : lastChunk a = a.drop (16 * (numberOfBlocks a.length - 1)) := by
  rw [lastChunk, memRead, ← List.length_drop, List.take_length]

/-- Settles O6: the chunks before the last are the message up to a multiple of sixteen bytes, the last is the rest. -/
theorem chunksPartitionTheMessage : Obligations.ChunksPartitionTheMessage := by
  intro a
  have hmax := numberOfBlocks_eq_max a.length
  refine ⟨fun k hk => ⟨?_, fun j hj => ⟨getElem?_memRead a (16 * k) hj, by omega⟩⟩, ?_, fun h => ?_, fun h => ?_⟩
  · rw [chunk, length_memRead]
    omega
  · rw [flatten_chunks, lastChunk_eq_drop, List.take_append_drop]
  · rw [lastChunk_eq_drop, List.length_drop, numberOfBlocks_of_padding h]
    omega
  · have hn := (needsPadding_eq_false_iff a.length).mp h
    rw [lastChunk_eq_drop, List.length_drop]
    omega

theorem length_pad {l : List Byte} (h : l.length ≤ 15) : (pad l).length = 16 := by
  simp only [pad, List.length_append, List.length_singleton, List.length_replicate]
  omega

/-- Settles O7: byte `i` of the padded chunk, before, at and after the chunk's length. -/
theorem paddingFillsTheBlock : Obligations.PaddingFillsTheBlock := by
  intro l h
  refine ⟨length_pad h, fun i hi => ?_⟩
  rcases Nat.lt_trichotomy i l.length with hlt | rfl | hgt
  · simp [pad, hlt, List.getElem?_append_left]
  · simp [pad]
  · obtain ⟨d, rfl⟩ := Nat.exists_eq_add_of_lt hgt
    have hzero : d < 15 - l.length := by omega
    simp [pad, hzero, Nat.add_assoc]

theorem getElem?_messageBlocks (a : List Byte) (k1 k2 : Block) {k : Nat} (hk : k < numberOfBlocks a.length) :
    (messageBlocks a k1 k2)[k]? = some (messageBlock a k1 k2 k) := by
  simp [messageBlocks, hk]

theorem messageBlock_of_not_last {a : List Byte} {k : Nat} (hk : k + 1 < numberOfBlocks a.length) (k1 k2 : Block) :
    messageBlock a k1 k2 k = Block.ofBytes (chunk a k) := if_pos hk

theorem messageBlock_last (a : List Byte) (k1 k2 : Block) :
    messageBlock a k1 k2 (numberOfBlocks a.length - 1) = lastBlock a k1 k2 := if_neg (by omega)

/-- Settles O8: block `k` is the chunk of that index, and the block of the last index is the masked one. -/
theorem onlyTheLastBlockIsMasked : Obligations.OnlyTheLastBlockIsMasked := by
  intro a k1 k2
  have hmax := numberOfBlocks_eq_max a.length
  refine ⟨length_messageBlocks a k1 k2, fun k hk => ?_, ?_⟩
  · rw [getElem?_messageBlocks a k1 k2 (by omega), messageBlock_of_not_last hk]
  · rw [getElem?_messageBlocks a k1 k2 (by omega), messageBlock_last, lastBlock]

/-- A message of one block is its own last chunk, and its one block is the last (42_tag_computation.md R164). -/
theorem messageBlocks_of_one_block {a : List Byte} (h : numberOfBlocks a.length = 1) (k1 k2 : Block) :
    messageBlocks a k1 k2 =
      [if needsPadding a.length then xor16 (Block.ofBytes (pad a)) k2 else xor16 (Block.ofBytes a) k1] := by
  have hlast : lastChunk a = a := by rw [lastChunk_eq_drop, h]; rfl
  have hblock := messageBlock_last a k1 k2
  rw [lastBlock, hlast, h] at hblock
  rw [messageBlocks, h, ← hblock]
  rfl

/-- Settles O9: both messages have one block, `PAD(M)`, masked with `K1` where the padding is written out and with `K2`
where it is not. -/
theorem writtenOutPaddingIsMaskedDifferently : Obligations.WrittenOutPaddingIsMaskedDifferently := by
  intro m k1 k2 hm
  have hpadded : needsPadding m.length = true := (needsPadding_iff _).mpr (by omega)
  have hone : numberOfBlocks m.length = 1 := by rw [numberOfBlocks_eq_max]; omega
  have hsixteen : (pad m).length = 16 := length_pad (Nat.le_of_lt_succ hm)
  have hwritten : messageBlocks (pad m) k1 k2 = [xor16 (Block.ofBytes (pad m)) k1] := by
    rw [messageBlocks_of_one_block (by rw [hsixteen]; rfl), hsixteen]
    rfl
  rw [hwritten, messageBlocks_of_one_block hone, if_pos hpadded, List.singleton_inj]
  exact BitVec.xor_right_inj (Block.ofBytes (pad m))

end Sys2Proof.Machine
end

section
/-! PROOFS. `TAG` with valid subkeys (42_tag_computation.md R160, R165 to R169): the whole next state, what the
exchanges of its chaining pass are, and what its answer depends on. -/

namespace Sys2Proof.Machine

/-- Settles O19: the state after the exchanges and the commit, answered with the Tag. -/
theorem tagChainsTheBlocksAndCommits : Obligations.TagChainsTheBlocksAndCommits := by
  intro m s hsub hdraws
  rw [exec_tag_of_success hsub hdraws, State.respond_eq, Block.length_first8]
  rfl

/-- Settles O20: the state after the exchanges, the last of them failed, answered with an error that is not fatal. -/
theorem failedTagLeavesNoTrace : Obligations.FailedTagLeavesNoTrace := by
  intro m s j e hsub hdraws hfail b hb
  obtain ⟨hj, rfl⟩ := List.getElem?_eq_some_iff.mp hb
  have hhistory (es : List Event) (q a r : Event) :
      s.history ++ es ++ [q, a, r] = s.history ++ (es ++ [q, a]) ++ [r] := by simp
  rw [exec_tag_of_first_failure hsub hj hdraws hfail, State.raise_eq, hhistory]
  rfl

@[simp] theorem length_exchanges (enc : Cipher) (key : Block) (bs : List Block) :
    ∀ w, (exchanges enc key w bs).length = 2 * bs.length := by
  induction bs with
  | nil => intro w; rfl
  | cons b bs ih => intro w; simp [exchanges, ih, Nat.mul_succ]

/-- The exchange of block `j` stands at `2 j` and `2 j + 1` among the exchanges of a pass, and takes the chain value
before the block to the one after it (42_tag_computation.md R165). -/
theorem getElem?_exchanges (enc : Cipher) (key b : Block) (bs : List Block) : ∀ (w : Block) (j : Nat), bs[j]? = some b →
    (exchanges enc key w bs)[2 * j]? = some (.request ⟨key, z16, xor16 b (chain enc key w (bs.take j))⟩) ∧
    (exchanges enc key w bs)[2 * j + 1]? = some (.answer (.ok (chain enc key w (bs.take (j + 1))))) := by
  induction bs with
  | nil => exact nofun
  | cons b' bs ih =>
    intro w j hj
    cases j with
    | zero =>
      obtain rfl : b' = b := Option.some.inj hj
      exact ⟨rfl, rfl⟩
    | succ j => exact ih _ j hj

/-- Settles O21: by induction on the blocks, the chain going on from each answer. -/
theorem exchangesFollowTheChain : Obligations.ExchangesFollowTheChain :=
  fun enc key w blocks => ⟨length_exchanges enc key blocks w, fun j b => getElem?_exchanges enc key b blocks w j⟩

/-- Settles O22: the second `TAG` runs from the state the first, or `SETCV`, left, on the decisions that follow. -/
theorem chainValueCarriesOverBetweenTags : Obligations.ChainValueCarriesOverBetweenTags := by
  intro a b c s hsub hc hdraws
  have htag := tagChainsTheBlocksAndCommits a s hsub fun j hj => hdraws j (by omega)
  have hlater {t : State} (h1 : t.draws = s.draws.drop (numberOfBlocks a.length))
      (h2 : t.drawIndex = s.drawIndex + numberOfBlocks a.length) (h3 : t.cipherPort = s.cipherPort) :
      ∀ j < numberOfBlocks b.length, t.drawAt j = .succeeds := fun j hj =>
    (State.drawAt_drop _ h1 h2 h3 j).trans (hdraws _ (by omega))
  exact ⟨_, _,
    runCommands_cons htag (runCommands_cons (tagChainsTheBlocksAndCommits b _ hsub (hlater rfl rfl rfl)) rfl),
    runCommands_cons htag (runCommands_cons (setcvWritesOnlyTheChainingValue c _ hc)
      (runCommands_cons (tagChainsTheBlocksAndCommits b _ hsub (hlater rfl rfl rfl)) rfl)),
    rfl, rfl, List.getLast?_concat, List.getLast?_concat⟩

/-- The blocks depend on the subkey the padding selects alone (42_tag_computation.md R164). -/
theorem messageBlocks_congr {m : List Byte} {k1 k2 k1' k2' : Block} (h2 : needsPadding m.length = true → k2 = k2')
    (h1 : needsPadding m.length = false → k1 = k1') : messageBlocks m k1 k2 = messageBlocks m k1' k2' := by
  have hlast : lastBlock m k1 k2 = lastBlock m k1' k2' := by
    cases hpad : needsPadding m.length with
    | true => simp [lastBlock, hpad, h2 hpad]
    | false => simp [lastBlock, hpad, h1 hpad]
  exact List.map_congr_left fun k _ => by rw [messageBlock, messageBlock, hlast]

/-- What a register reads as is settled by what it holds. -/
theorem State.read_congr {r : Reg} {s t : State} (h : s.reg r = t.reg r) : s.read r = t.read r := by
  rw [State.read, State.read, h]

/-- Two commands that raise the same error, not a fatal one, give the same response and leave `CV` as it was. -/
theorem response_and_cv_eq_of_raise {o o' : Host.Outcome State Fault Refusal} {e : CmdError} {u u' t t' : State}
    (he : e.fatal = false) (ho : o = .next (u.raise e)) (ho' : o' = .next (u'.raise e)) (hcv : u.cv = u'.cv)
    (h : o = .next t) (h' : o' = .next t') : t.history.getLast? = t'.history.getLast? ∧ t.cv = t'.cv := by
  refine ⟨getLast?_history_eq_of_raise ho ho' h h', ?_⟩
  obtain rfl := Host.Outcome.next.inj (ho.symm.trans h)
  obtain rfl := Host.Outcome.next.inj (ho'.symm.trans h')
  rw [(u.raise_sameSession_of_not_fatal he).cv, (u'.raise_sameSession_of_not_fatal he).cv, hcv]

/-- Two commands that answer the same result, with the same `CV` written. -/
theorem response_and_cv_eq_of_respond {o o' : Host.Outcome State Fault Refusal} {result : List Byte}
    {u u' t t' : State} (ho : o = .next (u.respond result)) (ho' : o' = .next (u'.respond result)) (hcv : u.cv = u'.cv)
    (h : o = .next t) (h' : o' = .next t') : t.history.getLast? = t'.history.getLast? ∧ t.cv = t'.cv := by
  refine ⟨getLast?_history_eq_of_respond ho ho' h h', ?_⟩
  obtain rfl := Host.Outcome.next.inj (ho.symm.trans h)
  obtain rfl := Host.Outcome.next.inj (ho'.symm.trans h')
  exact hcv

/-- Settles O23: the states agree on which of the three ends of a `TAG` it comes to, and on the blocks, `KEY` and `CV`
its answer is computed from. -/
theorem tagDependsOnKeySubkeyChainValueAndMessageOnly :
    Obligations.TagDependsOnKeySubkeyChainValueAndMessageOnly := by
  intro m s s' t t' hsub hkey hcv hk2 hk1 hdraws
  have hblocks : s.tagBlocks m = s'.tagBlocks m :=
    messageBlocks_congr (fun h => State.read_congr (hk2 h)) fun h => State.read_congr (hk1 h)
  cases hvalid : s.subkeysValid with
  | false =>
    exact response_and_cv_eq_of_raise rfl (exec_tag_of_no_subkeys hvalid m)
      (exec_tag_of_no_subkeys (hsub.symm.trans hvalid) m) hcv
  | true =>
    have hvalid' : s'.subkeysValid = true := hsub.symm.trans hvalid
    rcases s.draws_succeed_or_first_failure (numberOfBlocks m.length) with hall | ⟨j, e, hj, hbefore, hfail⟩
    · have hrun' := exec_tag_of_success hvalid' fun j hj => (hdraws j hj).symm.trans (hall j hj)
      rw [← hblocks, ← State.read_congr (r := .key) hkey, ← State.read_congr (r := .cv) hcv] at hrun'
      exact response_and_cv_eq_of_respond (exec_tag_of_success hvalid hall) hrun' rfl
    · have hbefore' : ∀ i < j, s'.drawAt i = .succeeds := fun i hi =>
        (hdraws i (hi.trans hj)).symm.trans (hbefore i hi)
      have hfail' : s'.drawAt j = .fails e := (hdraws j hj).symm.trans hfail
      have hrun := exec_tag_of_first_failure hvalid (by rwa [State.length_tagBlocks]) hbefore hfail
      have hrun' := exec_tag_of_first_failure hvalid' (by rwa [State.length_tagBlocks]) hbefore' hfail'
      exact response_and_cv_eq_of_raise rfl hrun hrun' hcv

end Sys2Proof.Machine
end

section
/-! PROOFS. `CRC32` as a command and bit by bit (43_crc32.md R190 to R194): its answer, the bit step, the flush, and the
laws of the checksum that follow from the linearity of the bit step. -/

namespace Sys2Proof.Machine

/-- Settles O25: the command answers the checksum's four bytes from the state it began in. -/
theorem crc32ReturnsTheChecksumAndChangesNothing : Obligations.Crc32ReturnsTheChecksumAndChangesNothing := by
  intro data s
  rw [exec_crc32, State.respond_eq]
  rfl

/-- A 32-bit value is its four bytes read big-endian (20_memory.md R54). -/
theorem toNat_eq_sum_extractLsb' (c : Word32) :
    c.toNat = (c.extractLsb' 24 8).toNat * 2 ^ 24 + (c.extractLsb' 16 8).toNat * 2 ^ 16 +
      (c.extractLsb' 8 8).toNat * 2 ^ 8 + (c.extractLsb' 0 8).toNat := by
  have hc := c.isLt
  simp only [BitVec.extractLsb'_toNat, Nat.shiftRight_eq_div_pow]
  omega

/-- Settles O27: the result bytes are the checksum's bits cut at 24, 16, 8 and 0. -/
theorem checksumBytesAreBigEndian : Obligations.ChecksumBytesAreBigEndian := by
  intro data s
  refine ⟨_, _, _, _, _, crc32ReturnsTheChecksumAndChangesNothing data s, List.getLast?_concat,
    toNat_eq_sum_extractLsb' (checksum data), fun i hi => ?_⟩
  simp [hi]

/-- Settles O26: the bits of the shifted value with the input bit, then the polynomial's under the old top bit. -/
theorem crcStepShiftsAndReducesByTheOldTopBit : Obligations.CrcStepShiftsAndReducesByTheOldTopBit := by
  intro c b i hi
  have hshifted : ((c <<< 1) ||| (BitVec.ofBool b).setWidth 32).getLsbD i =
      if i = 0 then b else c.getLsbD (i - 1) := by
    by_cases h0 : i = 0
    · simp [h0]
    · rw [BitVec.getLsbD_or, BitVec.getLsbD_shiftLeft]
      simp [h0, hi]
  have hmsb : c.getLsbD 31 = c.msb := (BitVec.msb_eq_getLsbD_last c).symm
  rw [hmsb, crcStep]
  cases c.msb with
  | false => rw [if_neg Bool.false_ne_true, hshifted, Bool.false_and, Bool.xor_false]
  | true => rw [if_pos rfl, BitVec.getLsbD_xor, hshifted, Bool.true_and]

/-- The bit step is linear over XOR in the register and the input bit together. -/
theorem crcStep_xor (c c' : Word32) (b b' : Bool) :
    crcStep (c ^^^ c') (b ^^ b') = crcStep c b ^^^ crcStep c' b' := by
  refine BitVec.eq_of_getLsbD_eq fun i hi => ?_
  rw [BitVec.getLsbD_xor, crcStepShiftsAndReducesByTheOldTopBit _ _ i hi,
    crcStepShiftsAndReducesByTheOldTopBit _ _ i hi, crcStepShiftsAndReducesByTheOldTopBit _ _ i hi]
  simp only [BitVec.getLsbD_xor, Bool.and_xor_distrib_right]
  split <;> simp only [Bool.xor_assoc, Bool.xor_left_comm]

/-- A bit step with input 0 loses no bit of the register: the polynomial's bit 0 keeps the old top bit. -/
theorem crcStep_false_eq_zero_iff (c : Word32) : crcStep c false = 0#32 ↔ c = 0#32 := by
  refine ⟨fun h => ?_, by rintro rfl; rfl⟩
  have hbit (i : Nat) (hi : i < 32) := crcStepShiftsAndReducesByTheOldTopBit c false i hi
  have htop : c.getLsbD 31 = false := by simpa [h] using hbit 0 (by decide)
  simp only [h, htop, BitVec.getLsbD_zero, Bool.false_and, Bool.xor_false] at hbit
  refine BitVec.eq_of_getLsbD_eq fun i hi => ?_
  rcases Nat.lt_or_eq_of_le (Nat.le_of_lt_succ hi) with hlt | rfl
  · simpa using (hbit (i + 1) (Nat.succ_lt_succ hlt)).symm
  · exact htop

/-- A byte-iteration is linear over XOR in the register and the data byte together. -/
theorem crcByteValue_xor (c c' : Word32) (b b' : Byte) :
    crcByteValue (c ^^^ c') (some (b ^^^ b')) = crcByteValue c (some b) ^^^ crcByteValue c' (some b') := by
  simp only [crcByteValue, List.foldl, inputBit, BitVec.getLsbD_xor, crcStep_xor]

theorem crcByteValue_zero_eq_zero_iff (c : Word32) : crcByteValue c (some 0x00#8) = 0#32 ↔ c = 0#32 := by
  simp only [crcByteValue, List.foldl, inputBit, BitVec.getLsbD_zero, crcStep_false_eq_zero_iff]

/-- The byte-iterations over data bytes from a register value on, without a flush. -/
def crcOver (c : Word32) (data : List Byte) : Word32 := crcFrom c (data.map some)

@[simp] theorem crcOver_nil (c : Word32) : crcOver c [] = c := rfl

@[simp] theorem crcOver_cons (c : Word32) (b : Byte) (data : List Byte) :
    crcOver c (b :: data) = crcOver (crcByteValue c (some b)) data := rfl

theorem crcOver_append (c : Word32) (d e : List Byte) : crcOver c (d ++ e) = crcOver (crcOver c d) e := by
  simp [crcOver, crcFrom]

/-- The flush iterations are those over four zero bytes. -/
theorem crcFrom_flush (c : Word32) :
    crcFrom c (List.replicate Config.flush none) = crcOver c (List.replicate 4 0x00#8) := rfl

/-- The checksum without a flush phase: four zero bytes follow the data (43_crc32.md R192). -/
theorem checksum_eq_crcOver (data : List Byte) : checksum data = crcOver 0#32 (data ++ List.replicate 4 0x00#8) := by
  rw [crcOver_append, ← crcFrom_flush]
  exact List.foldl_append

/-- The byte-iterations are the bit steps over the bits of the data in order. -/
theorem crcOver_eq_foldl_dataBits (data : List Byte) : ∀ c, crcOver c data = (dataBits data).foldl crcStep c := by
  induction data with
  | nil => intro c; rfl
  | cons b data ih =>
    intro c
    rw [crcOver_cons, ih, dataBits, dataBits, List.flatMap_cons, List.foldl_append, List.foldl_map]
    rfl

/-- The checksum as one fold of the bit step (43_crc32.md R192). -/
theorem checksum_eq_foldl_crcStep (data : List Byte) :
    checksum data = (dataBits data ++ List.replicate 32 false).foldl crcStep 0#32 := by
  have hbits : dataBits (data ++ List.replicate 4 0x00#8) = dataBits data ++ List.replicate 32 false :=
    List.flatMap_append
  rw [checksum_eq_crcOver, crcOver_eq_foldl_dataBits, hbits]

/-- Settles O28: a flush iteration is one with a zero byte, and a byte-iteration is eight bit steps. -/
theorem flushIsFourAppendedZeroBytes : Obligations.FlushIsFourAppendedZeroBytes :=
  fun data => ⟨checksum_eq_crcOver data, checksum_eq_foldl_crcStep data⟩

/-- The byte-iterations are linear over XOR in the register and the data together. -/
theorem crcOver_zipWith_xor {d e : List Byte} (h : d.length = e.length) :
    ∀ c c', crcOver (c ^^^ c') (List.zipWith (· ^^^ ·) d e) = crcOver c d ^^^ crcOver c' e := by
  induction d generalizing e with
  | nil =>
    obtain rfl := List.length_eq_zero_iff.mp h.symm
    exact fun _ _ => rfl
  | cons b d ih =>
    intro c c'
    cases e with
    | nil => cases h
    | cons b' e =>
      rw [List.zipWith_cons_cons, crcOver_cons, crcByteValue_xor, ih (Nat.succ.inj h)]
      rfl

/-- Zero bytes take a register value to zero exactly where it is zero. -/
theorem crcOver_replicate_zero_eq_zero_iff (m : Nat) :
    ∀ c, crcOver c (List.replicate m 0x00#8) = 0#32 ↔ c = 0#32 := by
  induction m with
  | zero => intro c; rfl
  | succ m ih => intro c; rw [List.replicate_succ, crcOver_cons, ih, crcByteValue_zero_eq_zero_iff]

/-- Settles O29: zero bytes leave the zero register zero. -/
theorem leadingZeroBytesAreInvisible : Obligations.LeadingZeroBytesAreInvisible := by
  intro m data
  have hzeros (n : Nat) : crcOver 0#32 (List.replicate n 0x00#8) = 0#32 :=
    (crcOver_replicate_zero_eq_zero_iff n _).mpr rfl
  refine ⟨?_, ?_⟩
  · rw [checksum_eq_crcOver, checksum_eq_crcOver, List.append_assoc, crcOver_append, hzeros]
  · rw [checksum_eq_crcOver, crcOver_append, hzeros, hzeros]

/-- Settles O30: the flush bytes of both buffers are zero, and so is their XOR. -/
theorem checksumIsLinear : Obligations.ChecksumIsLinear := by
  intro d e h
  have hflush : List.zipWith (· ^^^ ·) d e ++ List.replicate 4 0x00#8 =
      List.zipWith (· ^^^ ·) (d ++ List.replicate 4 0x00#8) (e ++ List.replicate 4 0x00#8) := by
    rw [List.zipWith_append h]
    rfl
  rw [checksum_eq_crcOver, checksum_eq_crcOver, checksum_eq_crcOver, hflush,
    ← crcOver_zipWith_xor (by simp [h]), BitVec.xor_zero]

/-- Two runs over the same data differ by the run of the registers' difference over zero bytes. -/
theorem crcOver_xor_crcOver (c c' : Word32) (data : List Byte) :
    crcOver c data ^^^ crcOver c' data = crcOver (c ^^^ c') (List.replicate data.length 0x00#8) := by
  have hcancel : List.zipWith (· ^^^ ·) data data = List.replicate data.length 0x00#8 := by
    simp [List.zipWith_self]
  rw [← crcOver_zipWith_xor rfl, hcancel]

/-- Settles O32: the checksums differ by the first copy's register run over zero bytes, as does that register from the
checksum. -/
theorem doublingKeepsOnlyAZeroChecksum : Obligations.DoublingKeepsOnlyAZeroChecksum := by
  intro data
  have hdouble : checksum (data ++ data) ^^^ checksum data =
      crcOver (crcOver 0#32 data) (List.replicate (data ++ List.replicate 4 0x00#8).length 0x00#8) := by
    rw [checksum_eq_crcOver, checksum_eq_crcOver, List.append_assoc, crcOver_append 0#32 data,
      crcOver_xor_crcOver, BitVec.xor_zero]
  rw [← BitVec.xor_eq_zero_iff, hdouble, checksum_eq_crcOver, crcOver_append,
    crcOver_replicate_zero_eq_zero_iff, crcOver_replicate_zero_eq_zero_iff]

end Sys2Proof.Machine
end

section
/-! PROOFS. The checksum as a polynomial remainder over GF(2) (43_crc32.md R194 (d)). -/

namespace Sys2Proof.Machine

open Polynomial

/-- The polynomial over GF(2) whose coefficient of `x^i` is bit `i` of a 32-bit value. -/
noncomputable def wordPoly (c : Word32) : (ZMod 2)[X] :=
  ∑ i ∈ Finset.range 32, if c.getLsbD i then X ^ i else 0

/-- `P(x)`: `x^32` and the bits of the CRC polynomial (43_crc32.md R194). -/
noncomputable def crcModulus : (ZMod 2)[X] := X ^ 32 + wordPoly Config.poly

/-- `p(x)` with more coefficients after it, the highest first. -/
noncomputable def feedBits (p : (ZMod 2)[X]) (bits : List Bool) : (ZMod 2)[X] :=
  bits.foldl (fun p b => p * X + if b then 1 else 0) p

theorem feedBits_append (p : (ZMod 2)[X]) (bits more : List Bool) :
    feedBits p (bits ++ more) = feedBits (feedBits p bits) more := List.foldl_append

theorem feedBits_concat (p : (ZMod 2)[X]) (bits : List Bool) (b : Bool) :
    feedBits p (bits ++ [b]) = feedBits p bits * X + if b then 1 else 0 := feedBits_append p bits [b]

/-- Zero bits after a polynomial multiply it by a power of `x`. -/
theorem feedBits_replicate_false (p : (ZMod 2)[X]) (n : Nat) :
    feedBits p (List.replicate n false) = p * X ^ n := by
  induction n with
  | zero => exact (mul_one p).symm
  | succ n ih => rw [List.replicate_succ', feedBits_concat, ih, pow_succ, ← mul_assoc, if_neg nofun, add_zero]

theorem degree_wordPoly_lt (c : Word32) : (wordPoly c).degree < (32 : Nat) := by
  refine mem_degreeLT.mp (Submodule.sum_mem _ fun i hi => ?_)
  split
  · exact mem_degreeLT.mpr ((degree_X_pow i).trans_lt (Nat.cast_lt.mpr (Finset.mem_range.mp hi)))
  · exact Submodule.zero_mem _

theorem monic_crcModulus : crcModulus.Monic := monic_X_pow_add (degree_wordPoly_lt _)

theorem degree_crcModulus : crcModulus.degree = (32 : Nat) :=
  (degree_add_eq_left_of_degree_lt ((degree_wordPoly_lt _).trans_eq (degree_X_pow 32).symm)).trans (degree_X_pow 32)

/-- Over GF(2), a term under the exclusive or of two conditions is the sum of the terms under each. -/
theorem ite_xor_eq_add (a b : Bool) (p : (ZMod 2)[X]) :
    (if a ^^ b then p else 0) = (if a then p else 0) + if b then p else 0 := by
  cases a <;> cases b <;> simp [CharTwo.add_self_eq_zero]

/-- The bit step multiplies by `x`, adds the input bit, and takes off the modulus where the top coefficient was set. -/
theorem wordPoly_crcStep (c : Word32) (b : Bool) :
    wordPoly (crcStep c b) =
      wordPoly c * X + (if b then 1 else 0) + if c.getLsbD 31 then crcModulus else 0 := by
  have hsplit : wordPoly (crcStep c b) =
      (∑ i ∈ Finset.range 32, if (if i = 0 then b else c.getLsbD (i - 1)) then X ^ i else 0) +
        ∑ i ∈ Finset.range 32, if c.getLsbD 31 && Config.poly.getLsbD i then X ^ i else 0 := by
    rw [wordPoly, ← Finset.sum_add_distrib]
    refine Finset.sum_congr rfl fun i hi => ?_
    rw [crcStepShiftsAndReducesByTheOldTopBit c b i (Finset.mem_range.mp hi), ite_xor_eq_add]
  have hlow : (∑ i ∈ Finset.range 32, if (if i = 0 then b else c.getLsbD (i - 1)) then X ^ i else 0 : (ZMod 2)[X]) =
      (∑ i ∈ Finset.range 31, if c.getLsbD i then X ^ (i + 1) else 0) + if b then 1 else 0 := by
    rw [Finset.sum_range_succ']
    rfl
  have hshift : wordPoly c * X = (∑ i ∈ Finset.range 31, if c.getLsbD i then X ^ (i + 1) else 0) +
      if c.getLsbD 31 then X ^ 32 else 0 := by
    rw [wordPoly, Finset.sum_mul, Finset.sum_range_succ]
    simp only [ite_mul, zero_mul, ← pow_succ]
  rw [hsplit, hlow, hshift]
  cases c.getLsbD 31 with
  | false => simp
  | true =>
    have htwice : (X ^ 32 + X ^ 32 : (ZMod 2)[X]) = 0 := CharTwo.add_self_eq_zero _
    simp only [Bool.true_and, if_true, crcModulus, wordPoly]
    linear_combination -htwice

/-- The register after any bits is congruent to the polynomial of those bits. -/
theorem crcModulus_dvd_foldl_crcStep_sub (bits : List Bool) :
    crcModulus ∣ feedBits 0 bits - wordPoly (bits.foldl crcStep 0#32) := by
  induction bits using List.reverseRecOn with
  | nil => simp [feedBits, wordPoly]
  | append_singleton bits b ih =>
    have hstep : feedBits 0 (bits ++ [b]) - wordPoly ((bits ++ [b]).foldl crcStep 0#32) =
        (feedBits 0 bits - wordPoly (bits.foldl crcStep 0#32)) * X -
          if (bits.foldl crcStep 0#32).getLsbD 31 then crcModulus else 0 := by
      rw [feedBits_concat, List.foldl_concat, wordPoly_crcStep]
      ring
    have hmodulus : crcModulus ∣ if (bits.foldl crcStep 0#32).getLsbD 31 then crcModulus else 0 := by
      split
      · exact dvd_rfl
      · exact dvd_zero _
    rw [hstep]
    exact dvd_sub (ih.mul_right X) hmodulus

/-- The register after any bits is the remainder of their polynomial. -/
theorem wordPoly_foldl_crcStep (bits : List Bool) :
    wordPoly (bits.foldl crcStep 0#32) = feedBits 0 bits %ₘ crcModulus := by
  rw [modByMonic_eq_of_dvd_sub monic_crcModulus (crcModulus_dvd_foldl_crcStep_sub bits)]
  refine ((modByMonic_eq_self_iff monic_crcModulus).mpr ?_).symm
  rw [degree_crcModulus]
  exact degree_wordPoly_lt _

/-- Settles O31: the checksum is the register after the data bits and 32 zero bits, which multiply by `x^32`. -/
theorem checksumIsThePolynomialRemainder : Obligations.ChecksumIsThePolynomialRemainder := by
  intro data
  have hremainder := wordPoly_foldl_crcStep (dataBits data ++ List.replicate 32 false)
  rw [← checksum_eq_foldl_crcStep, feedBits_append, feedBits_replicate_false] at hremainder
  exact hremainder

end Sys2Proof.Machine
end

section
/-! PROOFS. The errors a command ends with (60_exceptions.md R212 to R215): the whole next state after each. -/

namespace Sys2Proof.Machine

/-- A fatal error leaves an ended session and its two-byte response (60_exceptions.md R212, R213). -/
theorem State.raise_eq_of_fatal {e : CmdError} (h : e.fatal = true) (s : State) :
    s.raise e = { s.settled with
      key := none, cv := none, k1 := none, k2 := none, keyValid := false, subkeysValid := false
      history := s.history ++ [.response [e.status, 0x00#8]] } := by
  rw [State.raise_eq, if_pos h]
  cases e with
  | invalidKeyLength | invalidChainingValueLength => rfl
  | uninitializedSubkeys | cipherPrimitiveFailure | illegalCommand => exact nomatch h

/-- Settles O11: both commands raise the fatal `InvalidKeyLength` from the state they began in. -/
theorem invalidKeyLengthEndsTheSession : Obligations.InvalidKeyLengthEndsTheSession := by
  refine ⟨fun key cv s hkey => ?_, fun s hkey => ?_⟩
  · rw [exec_init_of_key_length_ne hkey, State.raise_eq_of_fatal rfl]
    rfl
  · rw [exec_derive_of_no_key hkey, State.raise_eq_of_fatal rfl]
    rfl

/-- Settles O12: both commands raise the fatal `InvalidChainingValueLength` from the state they began in. -/
theorem invalidChainingValueLengthEndsTheSession : Obligations.InvalidChainingValueLengthEndsTheSession := by
  refine ⟨fun key cv s hkey hcv => ?_, fun value s hvalue => ?_⟩
  · rw [exec_init_of_cv_length_ne hkey hcv, State.raise_eq_of_fatal rfl]
    rfl
  · rw [exec_setcv_of_length_ne hvalue, State.raise_eq_of_fatal rfl]
    rfl

/-- Settles O18: the error of a `TAG` without valid subkeys is not fatal, and no request comes before it. -/
theorem tagWithoutSubkeysChangesNothing : Obligations.TagWithoutSubkeysChangesNothing :=
  fun m _ hsub => exec_tag_eq_of_no_subkeys hsub m

/-- A `DERIVE` whose request fails passes on the collaborator's code and changes nothing of the session (60_exceptions.md
R215). -/
theorem exec_derive_eq_of_failure {s : State} {e : Byte} (hkey : s.keyValid = true) (hdraw : s.drawAt 0 = .fails e) :
    exec .derive s = .next { s.settled with
      draws := s.draws.drop 1
      drawIndex := s.drawIndex + 1
      history := s.history ++ [.request ⟨s.read .key, z16, z16⟩, .answer (.fail e),
        .response [0x04#8, 0x01#8, e]] } := by
  have hhistory (q a r : Event) : s.history ++ [q, a, r] = s.history ++ [q] ++ [a] ++ [r] := by simp
  rw [exec_derive_of_failure hkey hdraw, State.raise_eq, List.drop_one, hhistory]
  rfl

/-- Settles O17: a `DERIVE` has made its one request; a `TAG` has made an exchange for each block before the failing one,
and the failing request. -/
theorem cipherPrimitiveFailureChangesNoRegister : Obligations.CipherPrimitiveFailureChangesNoRegister := by
  refine ⟨fun s e hkey hdraw => exec_derive_eq_of_failure hkey hdraw, fun m s j e hsub hj hdraws hfail => ?_⟩
  have hblock := getElem?_messageBlocks m (s.read .k1) (s.read .k2) hj
  have hhistory (es : List Event) (q a r : Event) :
      s.history ++ es ++ [q, a, r] = s.history ++ (es ++ [q]) ++ [a, r] := by simp
  have hexec := failedTagLeavesNoTrace m s j e hsub hdraws hfail _ hblock
  rw [hhistory] at hexec
  refine ⟨_, hexec, ?_, ?_⟩
  · simp [requests, hj.le]
  · simp [responses]

end Sys2Proof.Machine
end

section
/-! PROOFS. The status each command answers with (60_exceptions.md R220), and what is left of a session once it has ended
(R222). -/

namespace Sys2Proof.Machine

theorem AnswersWith.of_raise {o : Host.Outcome State Fault Refusal} {s : State} {e : CmdError}
    (h : o = .next (s.raise e)) : AnswersWith o e.status := by
  rw [h]
  exact answersWith_raise_iff.mpr rfl

theorem AnswersWith.of_respond {o : Host.Outcome State Fault Refusal} {s : State} {result : List Byte}
    (h : o = .next (s.respond result)) : AnswersWith o statusOk := by
  rw [h]
  exact answersWith_respond_iff.mpr rfl

/-- `INIT` tests the key's length before the chaining value's. -/
theorem answersWith_init (key cv : List Byte) (s : State) : AnswersWith (exec (.init key cv) s)
    (if key.length ≠ 16 then 0x01#8 else if cv.length ≠ 16 then 0x02#8 else 0x00#8) := by
  by_cases hkey : key.length = 16
  · rw [if_neg (not_not_intro hkey)]
    by_cases hcv : cv.length = 16
    · rw [if_neg (not_not_intro hcv)]
      exact .of_respond (exec_init_of_length_eq hkey hcv s)
    · rw [if_pos hcv]
      exact .of_raise (exec_init_of_cv_length_ne hkey hcv s)
  · rw [if_pos hkey]
    exact .of_raise (exec_init_of_key_length_ne hkey cv s)

/-- `DERIVE` tests `KEY_VALID` before it sends its request. -/
theorem answersWith_derive (s : State) : AnswersWith (exec .derive s)
    (if s.keyValid = false then 0x01#8 else if s.drawAt 0 = .succeeds then 0x00#8 else 0x04#8) := by
  cases hkey : s.keyValid with
  | false => exact .of_raise (exec_derive_of_no_key hkey)
  | true =>
    cases hdraw : s.drawAt 0 with
    | succeeds => exact .of_respond (exec_derive_of_success hkey hdraw)
    | fails e => exact .of_raise (exec_derive_of_failure hkey hdraw)

/-- `TAG` tests `SUBKEYS_VALID` before it sends its requests. -/
theorem answersWith_tag (m : List Byte) (s : State) : AnswersWith (exec (.tag m) s)
    (if s.subkeysValid = false then 0x03#8
      else if (List.range (numberOfBlocks m.length)).all (fun j => s.drawAt j = .succeeds) then 0x00#8
      else 0x04#8) := by
  cases hsub : s.subkeysValid with
  | false => exact .of_raise (exec_tag_of_no_subkeys hsub m)
  | true =>
    rw [if_neg nofun]
    rcases s.draws_succeed_or_first_failure (numberOfBlocks m.length) with hall | ⟨j, e, hj, hdraws, hfail⟩
    · rw [if_pos (by simpa using hall)]
      exact .of_respond (exec_tag_of_success hsub hall)
    · have hnot : ¬ ∀ i < numberOfBlocks m.length, s.drawAt i = .succeeds := fun hall =>
        nomatch hfail.symm.trans (hall j hj)
      rw [if_neg (by simpa using hnot)]
      exact .of_raise (exec_tag_of_first_failure hsub (by rwa [State.length_tagBlocks]) hdraws hfail)

theorem answersWith_setcv (value : List Byte) (s : State) : AnswersWith (exec (.setcv value) s)
    (if value.length ≠ 16 then 0x02#8 else 0x00#8) := by
  by_cases hvalue : value.length = 16
  · rw [if_neg (not_not_intro hvalue)]
    exact .of_respond (exec_setcv_of_length_eq hvalue s)
  · rw [if_pos hvalue]
    exact .of_raise (exec_setcv_of_length_ne hvalue s)

theorem answersWith_crc32 (data : List Byte) (s : State) : AnswersWith (exec (.crc32 data) s) 0x00#8 :=
  .of_respond (exec_crc32 data s)

/-- Settles O49: command by command, along the tests each makes before it goes on. -/
theorem firstErrorInOrderIsReported : Obligations.FirstErrorInOrderIsReported :=
  ⟨fun _ _ _ hreset hready hdecode => .of_raise (step_of_decode_illegal hreset hready hdecode),
    answersWith_init, answersWith_derive, answersWith_tag, answersWith_setcv, answersWith_crc32⟩

/-- A session is *empty* where both flags are 0 (40_session_commands.md R122). -/
theorem State.lifecycle_eq_empty_iff (s : State) :
    s.lifecycle = some .empty ↔ s.keyValid = false ∧ s.subkeysValid = false := by
  cases hkey : s.keyValid <;> cases hsub : s.subkeysValid <;> simp [State.lifecycle, hkey, hsub]

/-- From *empty* no outcome of a command but `INIT` leaves *empty*: an error never does, and of the successes only those of
`INIT` and `DERIVE` do, the latter with a valid key alone. -/
theorem CommandOutcome.lifecycle_eq_empty {s t : State} {i : Instr} (h : CommandOutcome s i t) (hinit : i.op ≠ .init)
    (hempty : s.lifecycle = some .empty) : t.lifecycle = some .empty := by
  cases h with
  | raised e same => rw [State.lifecycle_raise, same.lifecycle, hempty, ite_self]
  | answered result update same =>
    rw [((State.respond_sameSession ..).trans same).lifecycle]
    cases update with
    | init => exact absurd rfl hinit
    | derive hkey => exact nomatch hkey.symm.trans (s.lifecycle_eq_empty_iff.mp hempty).left
    | tag | setcv | crc32 => exact hempty

/-- From *empty* no sequence of commands without an `INIT` leaves *empty* (60_exceptions.md R222). -/
theorem runCommands_of_empty {commands : List Instr} : ∀ {s : State}, (∀ i ∈ commands, i.op ≠ .init) →
    s.lifecycle = some .empty → ∃ t, runCommands commands s = .next t ∧ t.lifecycle = some .empty := by
  induction commands with
  | nil => exact fun _ hempty => ⟨_, rfl, hempty⟩
  | cons i is ih =>
    intro s hinit hempty
    obtain ⟨hi, his⟩ := List.forall_mem_cons.mp hinit
    obtain ⟨t, hexec, houtcome⟩ := exec_outcome i s
    obtain ⟨u, hrun, hu⟩ := ih his (houtcome.lifecycle_eq_empty hi hempty)
    exact ⟨u, runCommands_cons hexec hrun, hu⟩

/-- Settles O50: the commands leave the session *empty*, where neither flag is set and `SETCV` and `CRC32` need none. -/
theorem onlyInitRevivesASession : Obligations.OnlyInitRevivesASession := by
  intro commands s hinit hempty
  obtain ⟨t, hrun, ht⟩ := runCommands_of_empty hinit hempty
  obtain ⟨hkey, hsub⟩ := t.lifecycle_eq_empty_iff.mp ht
  exact ⟨t, hrun, ht, fun m => .of_raise (exec_tag_of_no_subkeys hsub m), .of_raise (exec_derive_of_no_key hkey),
    fun value hvalue => .of_respond (exec_setcv_of_length_eq hvalue t), fun data => answersWith_crc32 data t⟩

end Sys2Proof.Machine
end

section
/-! PROOFS. Reset and the sessions of a system (60_exceptions.md R231, 70_reset_and_hazards.md R250). -/

namespace Sys2Proof.Machine

/-- Session `n` of the system after reset is `State.reset` on cipher port `n` (60_exceptions.md R231). -/
theorem System.getElem?_sessions_reset {n : Nat} {s : State} (h : System.reset.sessions[n]? = some s) :
    s = { State.reset with cipherPort := n } := by
  rw [System.reset, List.getElem?_map] at h
  obtain ⟨port, hport, rfl⟩ := Option.map_eq_some_iff.mp h
  obtain ⟨-, rfl⟩ := List.getElem?_eq_some_iff.mp hport
  rw [List.getElem_range]

/-- The reset event on a system is the reset event on each of its sessions (70_reset_and_hazards.md R250). -/
theorem System.getElem?_sessions_resetAll {n : Nat} {sys : System} {t : State}
    (h : sys.resetAll.sessions[n]? = some t) : ∃ s, sys.sessions[n]? = some s ∧ t = s.applyReset := by
  rw [System.resetAll, List.getElem?_map] at h
  obtain ⟨s, hs, rfl⟩ := Option.map_eq_some_iff.mp h
  exact ⟨s, hs, rfl⟩

/-- Settles O58: a session after reset is `State.reset` on its own port, and the reset event gives each session the reset
state. -/
theorem resetReachesEveryInstance : Obligations.ResetReachesEveryInstance := by
  refine ⟨⟨?_, fun n s hs => ?_⟩, fun sys => ⟨List.length_map _, fun n t ht => ?_⟩⟩
  · simp [System.reset, Config.nsess]
  · obtain rfl := System.getElem?_sessions_reset hs
    obtain ⟨-, hquiet, -⟩ := State.reset_invariants n
    exact ⟨hquiet, rfl, rfl⟩
  · obtain ⟨s, -, rfl⟩ := System.getElem?_sessions_resetAll ht
    exact ⟨State.quiet_applyReset s, rfl, rfl, rfl, rfl, rfl⟩

end Sys2Proof.Machine
end

section
/-! PROOFS. A reset inside a command or before an illegal frame's response (70_reset_and_hazards.md R250,
30_encoding.md R94). -/

namespace Sys2Proof.Machine

/-- Without a reset before the command, an idle block takes the frame of the command its bytes decode to and runs it, under
the reset input. -/
theorem step_eq_of_decode_instr {s : State} {i : Instr} {len : Nat} (hreset : ∀ taken, s.resetIn ≠ .beforeCommand taken)
    (hready : s.ready = true) (hdecode : decode s.cmdIn = .instr i len) :
    step s = (s.takeFrame len).underReset (exec i (s.takeFrame len)) := by
  have hfetch : fetch s = .run i (s.takeFrame len) := by
    rw [fetch_of_no_reset hreset, fetchFrame_of_ready hready (ne_nil_of_decode_instr hdecode), hdecode]
  rw [step, hfetch]

/-- So with a frame that has an illegal header, which ends in `IllegalCommand` under the reset input. -/
theorem step_eq_of_decode_illegal {s : State} {why : Illegal} {len : Nat}
    (hreset : ∀ taken, s.resetIn ≠ .beforeCommand taken) (hready : s.ready = true)
    (hdecode : decode s.cmdIn = .illegal why len) :
    step s = (s.takeFrame len).underReset (.next ((s.takeFrame len).raise .illegalCommand)) := by
  have hoffered : s.cmdIn ≠ [] := fun hempty => nomatch hempty ▸ hdecode
  have hfetch : fetch s = .illegal (s.takeFrame len) := by
    rw [fetch_of_no_reset hreset, fetchFrame_of_ready hready hoffered, hdecode]
  rw [step, hfetch]

/-- A reset inside a command abandons it (70_reset_and_hazards.md R250). -/
theorem State.underReset_of_duringCommand {s : State} {n : Nat} (h : s.resetIn = .duringCommand n) (t : State) :
    s.underReset (.next t) = .next (s.abandon n t) := by
  unfold State.underReset
  rw [h]

/-- Abandoning a command is the reset event, so it leaves no state inside a command. -/
theorem State.quiet_abandon (n : Nat) (s t : State) : (s.abandon n t).Quiet := State.quiet_applyReset _

/-- What abandoning leaves offered is what follows the frame taken. -/
theorem State.cmdIn_abandon_takeFrame {len : Nat} (hlen : 9 ≤ len) (n : Nat) (s t : State) :
    ((s.takeFrame len).abandon n t).cmdIn = s.cmdIn.drop len := by
  rw [State.takeFrame_eq s len hlen]
  rfl

/-- Abandoning a command observes the first `n` of its events before the response, then the reset. -/
theorem State.PortsAfter.history_abandon {s t : State} {es : List Event} {r : List Byte}
    (h : s.PortsAfter (es ++ [.response r]) t) (n : Nat) :
    (s.abandon n t).history = s.history ++ es.take n ++ [.reset] :=
  State.abandon_history n (h.history.trans (List.append_assoc ..).symm)

/-- The first `n` of the events are `n` of them, or all. -/
theorem length_take_or_drop_eq_nil (es : List Event) (n : Nat) :
    (es.take n).length = n ∨ ((es.take n).length < n ∧ es.drop n = []) := by
  rw [List.length_take, List.drop_eq_nil_iff]
  omega

/-- Settles O44: the command's events before its response are cut after `n`, and the rest with the response is what the
command would have gone on to observe; an illegal frame has no events to cut. -/
theorem resetInsideACommandAbandonsIt : Obligations.ResetInsideACommandAbandonsIt := by
  refine ⟨fun s i len n hreset hready hdecode => ?_, fun s why len n hreset hready hdecode => ?_⟩
  · obtain ⟨es, r, u, hexec, h⟩ := exec_answered i (s.takeFrame len)
    have hstep : step s = .next ((s.takeFrame len).abandon n u) := by
      rw [step_eq_of_decode_instr (by simp [hreset]) hready hdecode, hexec]
      exact State.underReset_of_duringCommand (s := s.takeFrame len) hreset u
    refine ⟨_, u, es.take n, es.drop n, r.bytes, hstep, State.quiet_abandon .., rfl, rfl, rfl, rfl, rfl, rfl, rfl,
      State.cmdIn_abandon_takeFrame (nine_le_of_decode_instr hdecode) n s u, h.ports.history_abandon n,
      responses_take_eq_nil h.events.cipherExchanges.responses_eq_nil n, hexec, ?_, length_take_or_drop_eq_nil es n⟩
    rw [h.ports.history, List.append_assoc _ (es.take n), List.take_append_drop, List.append_assoc]
    rfl
  · have hstep : step s = .next ((s.takeFrame len).abandon n ((s.takeFrame len).raise .illegalCommand)) := by
      rw [step_eq_of_decode_illegal (by simp [hreset]) hready hdecode]
      exact State.underReset_of_duringCommand (s := s.takeFrame len) hreset _
    have hports := (State.PortsAfter.refl (s.takeFrame len)).raise .illegalCommand
    refine ⟨_, hstep, State.quiet_abandon .., rfl, rfl, rfl, rfl, rfl, rfl, rfl,
      State.cmdIn_abandon_takeFrame (nine_le_of_decode_illegal hdecode) n s _, (hports.history_abandon n).trans ?_⟩
    simp

end Sys2Proof.Machine
end

section
/-! PROOFS. A whole session from any state (70_reset_and_hazards.md R251). -/

namespace Sys2Proof.Machine

/-- Settles O24: `INIT` and `DERIVE` give the session its key and subkeys, and the `TAG` chains from them, on the decisions
after that of `DERIVE`'s request. -/
theorem fullSessionComputesTheTag : Obligations.FullSessionComputesTheTag := by
  intro key cv m s hkey hcv hdraws
  have hinit := initWithSixteenByteOperandsStartsASession key cv s hkey hcv
  refine ⟨_, runCommands_cons hinit (runCommands_cons (deriveWritesBothSubkeys _ rfl (hdraws 0 (Nat.succ_pos _)))
    (runCommands_cons (tagChainsTheBlocksAndCommits m _ rfl fun j hj => ?_) rfl)), rfl, rfl, rfl, rfl, rfl, ?_⟩
  · exact (State.drawAt_drop (s := s) 1 (by rfl) (by rfl) (by rfl) j).trans (hdraws _ (by omega))
  · simp only [responses_append, responses_exchanges, List.append_assoc]
    rfl

end Sys2Proof.Machine
end

section
/-! PROOFS. Where the step waits, where it stops, and that it stops nowhere else (10_state.md R33, R36;
93_implementation_defined.md U10). -/

namespace Sys2Proof.Machine

/-- Where the step has no next state, and with which fault (log entries 5 and 13). -/
def State.StopsWith (s : State) (f : Fault) : Prop :=
  (∀ taken, s.resetIn ≠ .beforeCommand taken) ∧
    ((s.ready = false ∧ f = .notIdle) ∨
      (s.ready = true ∧ s.cmdIn ≠ [] ∧ (∃ why, decode s.cmdIn = .incomplete why) ∧ f = .stuckInsideFrame))

theorem State.StopsWith.step_eq_fault {s : State} {f : Fault} (h : s.StopsWith f) : step s = .fault f := by
  obtain ⟨hreset, ⟨hready, rfl⟩ | ⟨hready, hoffered, ⟨why, hdecode⟩, rfl⟩⟩ := h
  · rw [step, fetch_of_no_reset hreset, fetchFrame, if_pos hready]
  · rw [step, fetch_of_no_reset hreset, fetchFrame_of_ready hready hoffered, hdecode]

/-- The reset input turns a next state into a next state. -/
theorem State.exists_underReset_eq_next (s t : State) : ∃ u, s.underReset (.next t) = .next u := by
  unfold State.underReset
  cases s.resetIn with
  | released => exact ⟨t, rfl⟩
  | beforeCommand taken => exact ⟨t, rfl⟩
  | duringCommand n => exact ⟨s.abandon n t, rfl⟩

/-- A frame taken whole leads to a next state, whatever its command, so only the step's own stops have none. -/
theorem step_next_or_stopsWith (s : State) : (∃ t, step s = .next t) ∨ ∃ f, s.StopsWith f := by
  rcases step_cases s with ⟨taken, -, hstep⟩ | ⟨hreset, ⟨hready, -⟩ | ⟨-, -, hwait⟩ | ⟨hready, hoffered, hdecode, -⟩ |
    ⟨-, -, why, len, -, hillegal⟩ | ⟨-, -, i, len, -, hrun⟩⟩
  · exact .inl ⟨_, hstep⟩
  · exact .inr ⟨_, hreset, .inl ⟨hready, rfl⟩⟩
  · exact .inl ⟨s, hwait⟩
  · exact .inr ⟨_, hreset, .inr ⟨hready, hoffered, hdecode, rfl⟩⟩
  · rw [hillegal]
    exact .inl (State.exists_underReset_eq_next ..)
  · obtain ⟨t, hexec, -⟩ := exec_outcome i (s.takeFrame len)
    rw [hrun, hexec]
    exact .inl (State.exists_underReset_eq_next ..)

theorem step_eq_fault_iff (s : State) (f : Fault) : step s = .fault f ↔ s.StopsWith f := by
  refine ⟨fun hfault => ?_, State.StopsWith.step_eq_fault⟩
  rcases step_next_or_stopsWith s with ⟨t, hnext⟩ | ⟨g, hstops⟩
  · exact nomatch hfault.symm.trans hnext
  · obtain rfl : f = g := Host.Outcome.fault.inj (hfault.symm.trans hstops.step_eq_fault)
    exact hstops

theorem step_ne_refused (s : State) (r : Refusal) : step s ≠ .refused r := by
  intro hrefused
  rcases step_next_or_stopsWith s with ⟨t, hnext⟩ | ⟨f, hstops⟩
  · exact nomatch hrefused.symm.trans hnext
  · exact nomatch hrefused.symm.trans hstops.step_eq_fault

/-- A block between two commands waits where nothing is offered, also when a reset is to come inside the next command. -/
theorem step_eq_self_of_nothing_offered {s : State} (hreset : ∀ taken, s.resetIn ≠ .beforeCommand taken)
    (hready : s.ready = true) (hcmd : s.cmdIn = []) : step s = .next s := by
  have hfetch : fetch s = .waiting := by
    rw [fetch_of_no_reset hreset]
    simp [fetchFrame, hready, hcmd]
  rw [step, hfetch]

/-- Settles O42: the wait, the two stops, and no refusal, by what a step can do. -/
theorem stepStopsOnlyInsideAFrameOrACommand : Obligations.StepStopsOnlyInsideAFrameOrACommand :=
  ⟨fun _ hreset hready hcmd => step_eq_self_of_nothing_offered hreset hready hcmd, step_eq_fault_iff, step_ne_refused⟩

end Sys2Proof.Machine
end
